-- ==== Sys2Proof/Word.lean ====
section
/-! DEFINITION. The word types of the block: wire bytes, device addresses, request header words, line levels. -/

namespace Sys2Proof

/-- One wire word: 8 bits, the only word length (R51). -/
abbrev Byte := BitVec 8

/-- A device address as READ and PROGRAM send it: a u16 (R37). -/
abbrev Addr := BitVec 16

/-- A request header word (R65). -/
abbrev Header := BitVec 32

/-- The level of a line: `true` is level 1 (R9, R17). -/
abbrev Level := Bool

end Sys2Proof
end

