-- ==== Sys2Proof/Machine/Flags.lean ====
section
/-! DEFINITION. The fields of the device's status byte (R30, R59, R60). The block has no flag register of its own (R29). -/

namespace Sys2Proof.Machine

/-- RDYN, bit 4: "busy when set". -/
def busy (s : Byte) : Bool := s.getLsbD 4

/-- WEN, bit 5. -/
def wen (s : Byte) : Bool := s.getLsbD 5

/-- INFEN, bit 3. The block reports it and decides nothing by it (R31). -/
def infen (s : Byte) : Bool := s.getLsbD 3

end Sys2Proof.Machine
end

