-- ==== Sys2Proof/Config.lean ====
section
/-! DEFINITION. The block's parameters (R6) and pin map (R17), the device commands' names (R12), and the free values. -/

namespace Sys2Proof

/-- The eight device commands, by the spec's names (R12, R56). -/
inductive Command where
  | rdsr | wren | wrdis | wrsr | erasePage | eraseAll | program | read
  deriving DecidableEq, Repr

/-- The four lines of the port, by their roles in the pin map: clock, data-out, data-in, chip-select (R17). -/
inductive Pin where
  | sck | mosi | miso | csn
  deriving DecidableEq, Repr

/-- The pin map: which physical line carries each role of the port, by a number that identifies the line; `none` leaves it open, as
the spec does (R17, R134; log 22). The map's other three roles are not block lines (R5 (d), R17). -/
structure PinMap where
  sck : Option Nat := none
  mosi : Option Nat := none
  miso : Option Nat := none
  csn : Option Nat := none
  deriving DecidableEq, Repr

/-- The three settle delays (R6). -/
inductive DelayParam where
  /-- `T_BIT_SETUP` -/
  | bitSetup
  /-- `T_BIT_HOLD` -/
  | bitHold
  /-- `T_CS` -/
  | cs
  deriving DecidableEq, Repr

/-- The configuration: the parameters of R6, all of them, and the pin map (R17, R134). The defaults are those of R6 and R57 (PRESUMED where the spec marks them general knowledge:
the opcode bytes and the chip-select level, log 2). A session's configuration never changes (R134); State carries it (log 1). -/
structure Config where
  /-- `WORD_BITS`: 8, the value every rule about a byte is written for (R7, R21, R75); `Config.wf` asks for it, and the type `Byte`
  has it (log 17). -/
  wordBits : Nat := 8
  /-- `ADDR_BITS`: 16, the value every rule about an address is written for (R37, R39, R54); `Config.wf` asks for it, and the type
  `Addr` has it (log 17). -/
  addrBits : Nat := 16
  /-- `CS_ACTIVE_LEVEL`: the level of CSN that means "asserted". -/
  csActiveLevel : Level := false
  opRdsr : Byte := 0x05
  opWren : Byte := 0x06
  opWrdis : Byte := 0x04
  opWrsr : Byte := 0x01
  opErasePage : Byte := 0x52
  opEraseAll : Byte := 0x62
  opProgram : Byte := 0x02
  opRead : Byte := 0x03
  /-- `INFEN_FLAG` (R61). -/
  infenFlag : Byte := 0x08
  /-- `DUMMY`. -/
  dummy : Byte := 0x00
  /-- `CHUNK_SIZE`, at least 1. -/
  chunkSize : Nat := 250
  /-- `POLL_LIMIT`: `none` is the unbounded wait; `some n` has n at least 1. -/
  pollLimit : Option Nat := none
  /-- `T_BIT_SETUP`, in the GPIO abstraction's milliseconds; `none` leaves it open, as the spec does (log 13). -/
  tBitSetup : Option Nat := none
  /-- `T_BIT_HOLD`, as `tBitSetup`. -/
  tBitHold : Option Nat := none
  /-- `T_CS`, as `tBitSetup`. -/
  tCs : Option Nat := none
  /-- The pin map (R17, R134): "configuration, not protocol". -/
  pinMap : PinMap := {}
  deriving DecidableEq, Repr

/-- The default configuration (R6, R57). -/
def Config.default : Config := {}

/-- The opcode byte of a command (R56). -/
def Config.opcode (c : Config) : Command → Byte
  | .rdsr => c.opRdsr
  | .wren => c.opWren
  | .wrdis => c.opWrdis
  | .wrsr => c.opWrsr
  | .erasePage => c.opErasePage
  | .eraseAll => c.opEraseAll
  | .program => c.opProgram
  | .read => c.opRead

/-- The eight opcode bytes in the order of R56. -/
def Config.opcodes (c : Config) : List Byte :=
  [c.opRdsr, c.opWren, c.opWrdis, c.opWrsr, c.opErasePage, c.opEraseAll, c.opProgram, c.opRead]

/-- The length of a delay that the configuration leaves open: a free value, because the spec gives none (R6 "OPEN", 93 U8). -/
opaque Config.openDelay : DelayParam → Nat

/-- The length of a delay under a configuration. No rule depends on it: the model has no time (R73, R142; log 13). -/
def Config.delay (c : Config) : DelayParam → Nat
  | .bitSetup => c.tBitSetup.getD (Config.openDelay .bitSetup)
  | .bitHold => c.tBitHold.getD (Config.openDelay .bitHold)
  | .cs => c.tCs.getD (Config.openDelay .cs)

/-- The physical line of a role that the configuration leaves open: a free value, because the spec assigns none (R17; log 22). -/
opaque Config.openLine : Pin → Nat

/-- The physical line that carries a role under a configuration (R17). The block's rules name roles alone, so no meaning reads it. -/
def Config.line (c : Config) : Pin → Nat
  | .sck => c.pinMap.sck.getD (Config.openLine .sck)
  | .mosi => c.pinMap.mosi.getD (Config.openLine .mosi)
  | .miso => c.pinMap.miso.getD (Config.openLine .miso)
  | .csn => c.pinMap.csn.getD (Config.openLine .csn)

/-- The free value of the n-th MISO sample: "a draw of one bit at that point of the event sequence", under no law (R19; 93 U1). -/
opaque Config.freeMiso : Nat → Level

end Sys2Proof
end

