-- ==== Sys2Proof/Syntax.lean ====
section
/-! DEFINITION. The instruction set: the 8 wire commands the block emits and the 13 host requests (R3), one constructor for
each row of spec/opcode_table.json, and the assembly text of the requests (R67). -/

namespace Sys2Proof

/-- One constructor per row of the opcode table, in its order. The first eight are wire commands, each one chip-select frame
(R52, R58); the other thirteen are host requests (R64). -/
inductive Instr where
  /-- `OP_RDSR`: format F1, the second byte is `DUMMY`. -/
  | opRdsr
  /-- `OP_WREN`: format F0. -/
  | opWren
  /-- `OP_WRDIS`: format F0. -/
  | opWrdis
  /-- `OP_WRSR`: format F1, the flag byte 0x00 or `INFEN_FLAG`. -/
  | opWrsr (flag : Byte)
  /-- `OP_ERASE_PAGE`: format F1, the page byte. -/
  | opErasePage (page : Byte)
  /-- `OP_ERASE_ALL`: format F0. -/
  | opEraseAll
  /-- `OP_PROGRAM`: format F2, address and data bytes. -/
  | opProgram (addr : Addr) (data : List Byte)
  /-- `OP_READ`: format F2, address and one dummy byte for each byte to return. -/
  | opRead (addr : Addr) (count : Nat)
  | setOe (en : Bool)
  | setCs (a : Bool)
  | xfer (out : Byte)
  | selectRegion (info : Bool)
  | readStatus
  | writeDisable
  | read (addr : Addr) (count : Nat)
  | program (addr : Addr) (data : List Byte)
  | waitReady
  | writeEnable
  | eraseAll
  | erasePage (page : Byte)
  | programChunked (addr : Addr) (data : List Byte)
  deriving DecidableEq, Repr

/-- Is this one of the eight wire commands? -/
def Instr.isWire : Instr → Bool
  | .opRdsr | .opWren | .opWrdis | .opWrsr _ | .opErasePage _ | .opEraseAll | .opProgram _ _ | .opRead _ _ => true
  | .setOe _ | .setCs _ | .xfer _ | .selectRegion _ | .readStatus | .writeDisable | .read _ _ | .program _ _ | .waitReady
  | .writeEnable | .eraseAll | .erasePage _ | .programChunked _ _ => false

/-- A flag operand in assembly text: 0 or 1. -/
def asmFlag (b : Bool) : String := if b then "1" else "0"

/-- A byte sequence in assembly text, numbers in decimal (R67 allows hex or decimal). -/
def asmBytes (d : List Byte) : String := "[" ++ ", ".intercalate (d.map fun b => toString b.toNat) ++ "]"

/-- The assembly line of a request: its name and its operands in the order of R64, separated by commas (R67). A wire command
has no assembly line. -/
def Instr.asm : Instr → Option String
  | .opRdsr | .opWren | .opWrdis | .opWrsr _ | .opErasePage _ | .opEraseAll | .opProgram _ _ | .opRead _ _ => none
  | .setOe en => some ("SET_OE " ++ asmFlag en)
  | .setCs a => some ("SET_CS " ++ asmFlag a)
  | .xfer out => some ("XFER " ++ toString out.toNat)
  | .selectRegion info => some ("SELECT_REGION " ++ asmFlag info)
  | .readStatus => some "READ_STATUS"
  | .writeDisable => some "WRITE_DISABLE"
  | .read addr count => some ("READ " ++ toString addr.toNat ++ ", " ++ toString count)
  | .program addr data => some ("PROGRAM " ++ toString addr.toNat ++ ", " ++ asmBytes data)
  | .waitReady => some "WAIT_READY"
  | .writeEnable => some "WRITE_ENABLE"
  | .eraseAll => some "ERASE_ALL"
  | .erasePage page => some ("ERASE_PAGE " ++ toString page.toNat)
  | .programChunked addr data => some ("PROGRAM_CHUNKED " ++ toString addr.toNat ++ ", " ++ asmBytes data)

end Sys2Proof
end

