-- ==== Sys2Proof/WellFormed.lean ====
section
/-! DEFINITION. Which configurations and which instructions are well formed. -/

namespace Sys2Proof

/-- "A configuration is well formed only if the eight values are pairwise distinct" (R56); `CHUNK_SIZE` and a `POLL_LIMIT` are
at least 1, and the widths are the ones the source states, 8 and 16 (R6; log 17). -/
def Config.wf (c : Config) : Bool :=
  decide c.opcodes.Nodup && decide (1 ≤ c.chunkSize) && (match c.pollLimit with | none => true | some n => decide (1 ≤ n))
    && c.wordBits == 8 && c.addrBits == 16

/-- The operands the encodings admit. The one operand that a type does not already bound is the flag byte of WRSR: 0x00 or
`INFEN_FLAG` (R58, R61). -/
def Instr.wf (c : Config) : Instr → Bool
  | .opWrsr flag => flag == 0x00 || flag == c.infenFlag
  | .opRdsr | .opWren | .opWrdis | .opErasePage _ | .opEraseAll | .opProgram _ _ | .opRead _ _ => true
  | .setOe _ | .setCs _ | .xfer _ | .selectRegion _ | .readStatus | .writeDisable | .read _ _ | .program _ _ | .waitReady
  | .writeEnable | .eraseAll | .erasePage _ | .programChunked _ _ => true

end Sys2Proof
end

