-- ==== Sys2Proof/Decode.lean ====
section
/-! DEFINITION. The two encodings: request header words with their payload (R64 to R66) and wire frames (R52 to R58). First the
decoder, total and rejecting by name, then the encoder. -/

namespace Sys2Proof

/-- A request as the host presents it: the header word, and the payload that travels beside it (R65): the count of READ, the
data of PROGRAM and PROGRAM_CHUNKED. A request that has no payload of a kind leaves that field unread (log 11). -/
structure Request where
  header : Header
  count : Nat := 0
  data : List Byte := []
  deriving DecidableEq, Repr

/-- The two kinds of code: a request, or the bytes of one wire frame in the order sent. -/
inductive Code where
  | request (r : Request)
  | frame (bytes : List Byte)
  deriving DecidableEq, Repr

/-- Why a code is rejected. -/
inductive DecodeError where
  /-- Request code 0x0, 0xE or 0xF (R66). -/
  | unknownRequest
  /-- A reserved bit, or a header field the request does not use, is not 0 (R65). -/
  | malformedRequest
  /-- An empty frame, or one whose first byte is none of the eight opcodes (R56, R62). -/
  | unknownOpcode
  /-- The bytes after the opcode are not those of the command's format (R53, R58). -/
  | malformedFrame
  deriving DecidableEq, Repr

/-! ### Header fields (R65) -/

/-- Bits [3:0]. -/
def hdrCode (h : Header) : Nat := (h.extractLsb' 0 4).toNat

/-- Bit [4]. -/
def hdrFlag (h : Header) : Bool := h.getLsbD 4

/-- Bits [7:5], reserved. -/
def hdrReserved (h : Header) : BitVec 3 := h.extractLsb' 5 3

/-- Bits [15:8]. -/
def hdrByte (h : Header) : Byte := h.extractLsb' 8 8

/-- Bits [31:16]. -/
def hdrAddr (h : Header) : Addr := h.extractLsb' 16 16

/-- Requests with a flag operand: SET_OE, SET_CS, SELECT_REGION (R65). -/
def Instr.usesFlag : Instr → Bool
  | .setOe _ | .setCs _ | .selectRegion _ => true
  | _ => false

/-- Requests with a byte operand: XFER, ERASE_PAGE (R65). -/
def Instr.usesByte : Instr → Bool
  | .xfer _ | .erasePage _ => true
  | _ => false

/-- Requests with an address operand: READ, PROGRAM, PROGRAM_CHUNKED (R65). -/
def Instr.usesAddr : Instr → Bool
  | .read _ _ | .program _ _ | .programChunked _ _ => true
  | _ => false

/-! ### Decoding requests -/

/-- The request a code names, with its operands taken from the header and the payload (R64, R65). -/
def requestOf (r : Request) : Option Instr :=
  match hdrCode r.header with
  | 0x1 => some (.setOe (hdrFlag r.header))
  | 0x2 => some (.setCs (hdrFlag r.header))
  | 0x3 => some (.xfer (hdrByte r.header))
  | 0x4 => some (.selectRegion (hdrFlag r.header))
  | 0x5 => some .readStatus
  | 0x6 => some .writeDisable
  | 0x7 => some (.read (hdrAddr r.header) r.count)
  | 0x8 => some (.program (hdrAddr r.header) r.data)
  | 0x9 => some .waitReady
  | 0xA => some .writeEnable
  | 0xB => some .eraseAll
  | 0xC => some (.erasePage (hdrByte r.header))
  | 0xD => some (.programChunked (hdrAddr r.header) r.data)
  | _ => none

/-- The reserved bits and every field that `i` does not use are 0 (R65). -/
def unusedZero (i : Instr) (h : Header) : Bool :=
  hdrReserved h == 0 && (i.usesFlag || !hdrFlag h) && (i.usesByte || hdrByte h == 0) && (i.usesAddr || hdrAddr h == 0)

/-- Decoding a request; an unknown code is reported before a malformed field (R122). -/
def decodeRequest (r : Request) : Except DecodeError Instr :=
  match requestOf r with
  | none => .error .unknownRequest
  | some i => if unusedZero i r.header then .ok i else .error .malformedRequest

/-! ### Decoding wire frames -/

/-- The command an opcode byte names under a configuration (R56). -/
def commandOf (cfg : Config) (op : Byte) : Option Command :=
  [Command.rdsr, .wren, .wrdis, .wrsr, .erasePage, .eraseAll, .program, .read].find? fun c => cfg.opcode c == op

/-- The wire command with these parameter bytes, if they have the command's format (R58). -/
def wireOf (cfg : Config) : Command → List Byte → Option Instr
  | .rdsr, [d] => if d = cfg.dummy then some .opRdsr else none
  | .wren, [] => some .opWren
  | .wrdis, [] => some .opWrdis
  | .wrsr, [flag] => if flag = 0x00 ∨ flag = cfg.infenFlag then some (.opWrsr flag) else none
  | .erasePage, [page] => some (.opErasePage page)
  | .eraseAll, [] => some .opEraseAll
  | .program, hi :: lo :: d => some (.opProgram (hi ++ lo) d)
  | .read, hi :: lo :: d => if d = List.replicate d.length cfg.dummy then some (.opRead (hi ++ lo) d.length) else none
  | _, _ => none

/-- Decoding one wire frame. -/
def decodeFrame (cfg : Config) : List Byte → Except DecodeError Instr
  | [] => .error .unknownOpcode
  | op :: ps =>
    match commandOf cfg op with
    | none => .error .unknownOpcode
    | some c =>
      match wireOf cfg c ps with
      | none => .error .malformedFrame
      | some i => .ok i

/-- Decoding either kind of code. -/
def decode (cfg : Config) : Code → Except DecodeError Instr
  | .request r => decodeRequest r
  | .frame bytes => decodeFrame cfg bytes

/-! ### Encoding -/

/-- A header word from its fields, the reserved bits 0 (R65). -/
def mkHeader (code : BitVec 4) (flag : Bool) (byte : Byte) (addr : Addr) : Header :=
  addr ++ byte ++ (0 : BitVec 3) ++ BitVec.ofBool flag ++ code

/-- The two address bytes, high byte first (R39, R54). -/
def addrBytes (a : Addr) : List Byte := [a.extractLsb' 8 8, a.extractLsb' 0 8]

/-- The bytes a wire command sends, in order (R58). A host request has no frame of its own here. -/
def frameOf (cfg : Config) : Instr → List Byte
  | .opRdsr => [cfg.opRdsr, cfg.dummy]
  | .opWren => [cfg.opWren]
  | .opWrdis => [cfg.opWrdis]
  | .opWrsr flag => [cfg.opWrsr, flag]
  | .opErasePage page => [cfg.opErasePage, page]
  | .opEraseAll => [cfg.opEraseAll]
  | .opProgram addr data => cfg.opProgram :: (addrBytes addr ++ data)
  | .opRead addr count => cfg.opRead :: (addrBytes addr ++ List.replicate count cfg.dummy)
  | .setOe _ | .setCs _ | .xfer _ | .selectRegion _ | .readStatus | .writeDisable | .read _ _ | .program _ _ | .waitReady
  | .writeEnable | .eraseAll | .erasePage _ | .programChunked _ _ => []

/-- The header word and payload of a request (R64, R65); a wire command has none, and gets the unassigned code 0. -/
def requestFor : Instr → Request
  | .setOe en => { header := mkHeader 0x1 en 0 0 }
  | .setCs a => { header := mkHeader 0x2 a 0 0 }
  | .xfer out => { header := mkHeader 0x3 false out 0 }
  | .selectRegion info => { header := mkHeader 0x4 info 0 0 }
  | .readStatus => { header := mkHeader 0x5 false 0 0 }
  | .writeDisable => { header := mkHeader 0x6 false 0 0 }
  | .read addr count => { header := mkHeader 0x7 false 0 addr, count := count }
  | .program addr data => { header := mkHeader 0x8 false 0 addr, data := data }
  | .waitReady => { header := mkHeader 0x9 false 0 0 }
  | .writeEnable => { header := mkHeader 0xA false 0 0 }
  | .eraseAll => { header := mkHeader 0xB false 0 0 }
  | .erasePage page => { header := mkHeader 0xC false page 0 }
  | .programChunked addr data => { header := mkHeader 0xD false 0 addr, data := data }
  | .opRdsr | .opWren | .opWrdis | .opWrsr _ | .opErasePage _ | .opEraseAll | .opProgram _ _ | .opRead _ _ => { header := 0 }

/-- The code of an instruction: the frame of a wire command, the header word and payload of a request. -/
def encode (cfg : Config) (i : Instr) : Code :=
  if i.isWire then .frame (frameOf cfg i) else .request (requestFor i)

/-! ### The opcode table's words -/

/-- The k-th byte of a table word, the first byte lowest. -/
def tableByte (w k : Nat) : Byte := BitVec.ofNat 8 (w / 256 ^ k)

/-- A wire row's word laid out as a frame: the opcode's shortest frame (R53), its bytes taken from the word in order (log 15). -/
def tableFrame (cfg : Config) (w : Nat) : List Byte :=
  match commandOf cfg (tableByte w 0) with
  | some .rdsr | some .wrsr | some .erasePage => [tableByte w 0, tableByte w 1]
  | some .program | some .read => [tableByte w 0, tableByte w 1, tableByte w 2]
  | some .wren | some .wrdis | some .eraseAll | none => [tableByte w 0]

/-- A row's word as a code. A word of one byte is a wire row's, an opcode. A longer one is a request row's header, its bits above
`nbits` 0, with an empty payload: READ, PROGRAM and PROGRAM_CHUNKED give their header 16 bits, the address above them (log 15). -/
def tableCode (cfg : Config) (nbits w : Nat) : Code :=
  if nbits ≤ 8 then .frame (tableFrame cfg w) else .request { header := BitVec.ofNat 32 w }

/-- What the decoder reads from a table row's word under the default configuration. -/
def decodeTableWord (nbits w : Nat) : Option Instr :=
  match decode Config.default (tableCode Config.default nbits w) with
  | .ok i => some i
  | .error _ => none

end Sys2Proof
end

