-- ==== Sys2Proof/Machine/Operands.lean ====
section
/-! DEFINITION. Operand forms: the flag byte, the chunks of PROGRAM_CHUNKED, and the bytes of a frame that are results. -/

namespace Sys2Proof.Machine

/-- The flag byte of SELECT_REGION: `INFEN_FLAG` for the info page, 0x00 for the main block (R54, R61, R86). -/
def flagByte (cfg : Config) (info : Bool) : Byte := if info then cfg.infenFlag else 0x00

/-- The status byte among the bytes received in an RDSR frame: byte 1 (R53, R55). -/
def statusByte (received : List Byte) : Byte := received.getD 1 0

/-- The data among the bytes received in a READ frame: all after the three header bytes (R55, R89). -/
def readData (received : List Byte) : List Byte := received.drop 3

/-- The number of chunks of a sequence of `len` bytes: `ceil(len / CHUNK_SIZE)` (R107). -/
def chunkCount (cfg : Config) (len : Nat) : Nat := (len + cfg.chunkSize - 1) / cfg.chunkSize

/-- The start address of chunk k: `addr + k * CHUNK_SIZE` (R104, R105). It fits a u16 whenever the request is not refused (R108). -/
def chunkAddr (cfg : Config) (addr : Addr) (k : Nat) : Addr := BitVec.ofNat 16 (addr.toNat + k * cfg.chunkSize)

/-- The bytes of chunk k: `data[k * CHUNK_SIZE .. min(L, (k+1) * CHUNK_SIZE))` (R104, R105). -/
def chunkData (cfg : Config) (data : List Byte) (k : Nat) : List Byte := (data.drop (k * cfg.chunkSize)).take cfg.chunkSize

/-- The range check of PROGRAM_CHUNKED: `addr + len(data) > 0x10000` (R104, R115). -/
def outOfRange (addr : Addr) (data : List Byte) : Bool := decide (addr.toNat + data.length > 0x10000)

end Sys2Proof.Machine
end

