-- ==== Sys2Proof/Machine/State.lean ====
section
/-! DEFINITION. The block's state (10_state.md), its events and responses, the outcomes of a step, and the state after reset. -/

namespace Sys2Proof.Machine

/-- A pin's direction (R9, R16). -/
inductive PinDir where
  | input | output
  deriving DecidableEq, Repr

/-- One event of the pin-event trace (R9, R27). It names a line by its role; the pin map gives the physical line (R17). -/
inductive Event where
  /-- `Configure(pin, dir, lvl?)`: the level is given for an output. -/
  | configure (pin : Pin) (dir : PinDir) (level : Option Level)
  /-- `Drive(pin, lvl)` -/
  | drive (pin : Pin) (level : Level)
  /-- `Sample(pin)` with the level drawn. -/
  | sample (pin : Pin) (level : Level)
  /-- `Delay(T)` -/
  | delay (param : DelayParam)
  deriving DecidableEq, Repr

/-- The fault kinds (R113); `FAULT = None` is `none`. -/
inductive FaultKind where
  /-- Code 1: the status that confirms a write-enable has bit 5 = 0 (R120). -/
  | handshakeFailure
  /-- Code 2: a bounded busy wait is exhausted (R121). -/
  | deviceUnresponsive
  deriving DecidableEq, Repr

/-- The refusal reasons (R115). -/
inductive RefusalReason where
  | unknownRequest | malformedRequest | sessionAborted | busNotAcquired | frameOpen | argumentRange
  deriving DecidableEq, Repr

/-- How a request ends for the host (R28). -/
inductive Response where
  | done
  | byte (v : Byte)
  | status (s : Byte)
  | bytes (r : List Byte)
  | refused (reason : RefusalReason)
  | faulted (kind : FaultKind)
  deriving DecidableEq, Repr

/-- What the host does between responses: present a request, or reset the block (R132). -/
inductive HostMove where
  | present (r : Request)
  | reset
  deriving DecidableEq, Repr

/-- The two erase requests (R101, R102). -/
inductive EraseKind where
  | all
  | page (p : Byte)
  deriving DecidableEq, Repr

/-- Whose busy wait is in progress (R14: SEQ "names the request and the step it is at"). -/
inductive Waiter where
  | waitReady
  | erase (e : EraseKind)
  deriving DecidableEq, Repr

/-- The phases of a chunk of PROGRAM_CHUNKED (R104): `Wait`, `Enable`, `Send`, with the second frame of `we()`, the
confirmation (R99), named on its own (log 8). -/
inductive ChunkPhase where
  | wait | enable | confirm | send
  deriving DecidableEq, Repr

/-- The sequencer position SEQ (R14): `idle`, or the request being executed and the step it is at. A position of a frame request names the wire
frame that is sent next. The rules of SET_OE, SET_CS and XFER name no steps, so each has one position, with its operand (log 20). -/
inductive Seq where
  /-- Between requests. -/
  | idle
  /-- SET_OE (R69). -/
  | setOe (en : Bool)
  /-- SET_CS (R72). -/
  | setCs (a : Bool)
  /-- XFER (R74); BITCNT counts the bits done (R21). -/
  | xfer (out : Byte)
  /-- The one frame of a single-frame request (41_flash_commands.md), the bytes to send. -/
  | command (bytes : List Byte)
  /-- `Erase`: the erase frame (R101, R102). -/
  | erase (e : EraseKind)
  /-- `Poll(POLLS)`: a status read of a busy wait (R96). -/
  | poll (w : Waiter)
  /-- `Enable` of WRITE_ENABLE (R99). -/
  | enable
  /-- `Confirm` of WRITE_ENABLE (R99). -/
  | confirm
  /-- `Chunk(k, phase)` of PROGRAM_CHUNKED (R104), with the request's operands. -/
  | chunk (k : Nat) (phase : ChunkPhase) (addr : Addr) (data : List Byte)
  deriving DecidableEq, Repr

/-- The block's state. The fields up to `responses` are the spec's (R15 to R28); `hostQueue`, `misoIn` and `draws` are the
model's own: the inputs from the host and the device, and the counter of free values (log 3, log 5). -/
structure State where
  /-- The parameters (R6) and the pin map (R17), fixed for a session (R134); log 1. -/
  cfg : Config
  /-- OE (R15). -/
  oe : Bool
  /-- SCK_Q (R18). -/
  sckQ : Level
  /-- MOSI_Q (R18). -/
  mosiQ : Level
  /-- CSN_Q (R18). -/
  csnQ : Level
  /-- CS_ASSERTED (R20). -/
  csAsserted : Bool
  /-- SHIFT_OUT (R21). -/
  shiftOut : Byte
  /-- SHIFT_IN (R21). -/
  shiftIn : Byte
  /-- BITCNT, 0..8 (R21). -/
  bitCnt : Nat
  /-- FAULT (R22). -/
  fault : Option FaultKind
  /-- POLLS (R23). -/
  polls : Nat
  /-- SEQ (R14). -/
  seq : Seq
  /-- WE_ARMED, ghost (R24). -/
  weArmed : Bool
  /-- LAST_RDYN, ghost (R25). -/
  lastRdyn : Bool
  /-- OBLIGATION_VIOLATED, ghost (R26). -/
  obligationViolated : Bool
  /-- TRACE, oldest event first (R27). -/
  trace : List Event
  /-- The responses given to the host, oldest first (R27, R28; log 14). -/
  responses : List Response
  /-- What the host does next, in order (R64, R132; log 5). -/
  hostQueue : List HostMove
  /-- The levels MISO is going to hold at the coming samples, as far as the environment has settled them (R19; log 3). -/
  misoIn : List Level
  /-- How many samples have been drawn: the index of the next free value (R19; log 3). -/
  draws : Nat
  deriving DecidableEq, Repr

/-- Why the model stops. The block's own faults (R113) are responses, not stops (log 9). -/
inductive Fault where
  /-- Raised by `step` alone, when SEQ names a frame whose bytes are no command frame of R58. The block never gets there: "The
  block emits only the eight opcodes of rule R56" (R62). Safe: the model stops (log 10). -/
  | notACommandFrame
  deriving DecidableEq, Repr

/-- Refusals of the model. The block's own refusals (R115) are responses, not these (log 9). -/
inductive Refusal where
  /-- An instruction without a meaning yet; no arm of `exec` raises it now. Safe: the model stops. -/
  | notModelled (mnemonic : String)
  deriving DecidableEq, Repr

/-- The state after reset: R34. The latches and shift registers, which R34 leaves unspecified, are 0 (DESIGN CHOICE, log 4);
the inputs are empty and the draw counter is 0 (DESIGN CHOICE, log 3 and 5). -/
def State.reset : State where
  cfg := Config.default
  oe := false
  sckQ := false
  mosiQ := false
  csnQ := false
  csAsserted := false
  shiftOut := 0
  shiftIn := 0
  bitCnt := 0
  fault := none
  polls := 0
  seq := .idle
  weArmed := false
  lastRdyn := true
  obligationViolated := false
  trace := []
  responses := []
  hostQueue := []
  misoIn := []
  draws := 0

end Sys2Proof.Machine
end

