-- ==== Sys2Proof/Machine/Ops.lean ====
section
/-! DEFINITION. The named operations the meanings share: pin primitives (R9), the byte exchange (R75), the frame (R83), the
command frame with its ghost updates (R92), responses, refusals and faults (R114 to R124), the busy wait (R96), the write-enable
(R99) and the chunk loop (R104). -/

namespace Sys2Proof.Machine

/-! ### Pin primitives (R9): each appends one event -/

/-- Append one event to the trace (R27). -/
def emit (e : Event) (s : State) : State := { s with trace := s.trace ++ [e] }

/-- Set an output latch (R18). MISO is never driven and has none (R16). -/
def setLatch (p : Pin) (l : Level) (s : State) : State :=
  match p with
  | .sck => { s with sckQ := l }
  | .mosi => { s with mosiQ := l }
  | .csn => { s with csnQ := l }
  | .miso => s

/-- `Configure(pin, Out, lvl)` (R9, R18). -/
def configureOut (p : Pin) (l : Level) (s : State) : State := emit (.configure p .output (some l)) (setLatch p l s)

/-- `Configure(pin, In)` (R9). -/
def configureIn (p : Pin) (s : State) : State := emit (.configure p .input none) s

/-- `Drive(pin, lvl)` (R9, R18). -/
def drive (p : Pin) (l : Level) (s : State) : State := emit (.drive p l) (setLatch p l s)

/-- `Delay(T)`: no effect but its event (R9). -/
def settle (d : DelayParam) (s : State) : State := emit (.delay d) s

/-- The level MISO holds at the k-th sample from now: the one the environment has settled, else a free value (R19; log 3). -/
def State.level (s : State) (k : Nat) : Level := s.misoIn.getD k (Config.freeMiso (s.draws + k))

/-- `Sample(MISO)`: the event with the level drawn; the draw is used up (R9, R19). The level is `s.level 0`. -/
def sampleMiso (s : State) : State :=
  emit (.sample .miso (s.level 0)) { s with misoIn := s.misoIn.tail, draws := s.draws + 1 }

/-- The level a chip-select write drives: `CS_ACTIVE_LEVEL` when it asserts, its complement when it de-asserts (R72, R83). -/
def csLevel (cfg : Config) (a : Bool) : Level := if a then cfg.csActiveLevel else !cfg.csActiveLevel

/-- A chip-select write and its settle delay (R72, R73, R83). -/
def csWrite (a : Bool) (s : State) : State :=
  let s := drive .csn (csLevel s.cfg a) s
  let s := settle .cs s
  { s with csAsserted := a }

/-! ### The byte exchange (R75) -/

/-- Bit k of an exchange, steps 1 to 8 of R75. -/
def xferBit (out : Byte) (s : State) (k : Nat) : State :=
  let s := drive .sck false s
  let s := drive .mosi (out.getLsbD (7 - k)) s
  let s := settle .bitSetup s
  let l := s.level 0
  let s := sampleMiso s
  let s := drive .sck true s
  let s := { s with shiftIn := s.shiftIn <<< 1 ||| (BitVec.ofBool l).setWidth 8 }
  let s := settle .bitHold s
  let s := drive .sck false s
  { s with bitCnt := k + 1 }

/-- `xfer(out)`: eight bits, most significant first. The byte received is left in `SHIFT_IN` (R75). -/
def xferByte (out : Byte) (s : State) : State :=
  [0, 1, 2, 3, 4, 5, 6, 7].foldl (xferBit out) { s with shiftOut := out, shiftIn := 0, bitCnt := 0 }

/-- The exchanges of a frame in order, with the bytes received (R83). -/
def exchange : List Byte → State → List Byte × State
  | [], s => ([], s)
  | b :: bs, s =>
    let s := xferByte b s
    let r := exchange bs s
    (s.shiftIn :: r.1, r.2)

/-- `Frame(b)`: assert, exchange, de-assert (R83). -/
def frame (bytes : List Byte) (s : State) : List Byte × State :=
  let r := exchange bytes (csWrite true s)
  (r.1, csWrite false r.2)

/-! ### Command frames and ghost state (R92) -/

/-- Commands that must follow a confirmed write-enable: program and the erases (R26, R92). -/
def needsWriteEnable : Command → Bool
  | .program | .erasePage | .eraseAll => true
  | .rdsr | .wren | .wrdis | .wrsr | .read => false

/-- `ghost_before(op)` (R92). -/
def ghostBefore (c : Command) (s : State) : State :=
  if needsWriteEnable c && (!s.weArmed || s.lastRdyn) then { s with obligationViolated := true } else s

/-- `ghost_after(op, s)` (R92); `st` is the status byte of an RDSR frame. -/
def ghostAfter (c : Command) (st : Byte) (s : State) : State :=
  match c with
  | .rdsr => { s with lastRdyn := busy st }
  | .wren => s
  | .wrdis | .wrsr | .erasePage | .eraseAll | .program | .read => { s with weArmed := false }

/-- One command frame with the ghost updates around it (R92): the bytes received, and the state after. -/
def sendCommand (c : Command) (bytes : List Byte) (s : State) : List Byte × State :=
  let r := frame bytes (ghostBefore c s)
  (r.1, ghostAfter c (statusByte r.1) r.2)

/-! ### Ends of a request (R28, R115, R124) -/

/-- End the request with a response: SEQ returns to `Idle` (R14, R28). -/
def respond (r : Response) (s : State) : State := { s with responses := s.responses ++ [r], seq := .idle }

/-- `refuse(reason)`: no pin event and no state change, only the response (R115). -/
def refuse (reason : RefusalReason) (s : State) : State := respond (.refused reason) s

/-- Fault entry, the one way a fault is taken: `FAULT <- kind`, the response, `SEQ <- Idle`, and nothing else (R124). There is
no return from a fault (R125); `sessionReset` is the only way to clear it (R116). -/
def raiseFault (kind : FaultKind) (s : State) : State := respond (.faulted kind) { s with fault := some kind }

/-- Reset of the block: a new session with the values of R34, no pin event (R133). The configuration and the inputs still to
come are not the block's to reset, and the draw counter goes on so that draws stay fresh (log 16). -/
def sessionReset (s : State) : State :=
  { State.reset with cfg := s.cfg, hostQueue := s.hostQueue, misoIn := s.misoIn, draws := s.draws }

/-- The one check of SET_OE (R69, R114, R116). -/
def sessionCheck (body : State → State) (s : State) : State :=
  if s.fault.isSome then refuse .sessionAborted s else body s

/-- The two checks of SET_CS and XFER (R72, R74, R114, R117). -/
def busChecks (body : State → State) (s : State) : State :=
  sessionCheck (fun s => if s.oe then body s else refuse .busNotAcquired s) s

/-- `command_checks()` (R114, R118). -/
def commandChecks (body : State → State) (s : State) : State :=
  busChecks (fun s => if s.csAsserted then refuse .frameOpen s else body s) s

/-! ### Busy wait, write-enable, chunk loop -/

/-- The end of a request that has no data to return. -/
def finish (s : State) : State := respond .done s

/-- The rest of `wait_ready()` once a poll's status is in (R96): count it; ready goes on with `k`; else an exhausted bound
faults (R98), and otherwise the block is at the same position, about to poll again (log 6). The ready test comes first. -/
def afterPoll (k : State → State) (st : Byte) (s : State) : State :=
  let s := { s with polls := s.polls + 1 }
  if busy st then
    match s.cfg.pollLimit with
    | some n => if n ≤ s.polls then raiseFault .deviceUnresponsive s else s
    | none => s
  else k s

/-- The rest of `we()` once the confirming status is in: bit 5 decides (R99, R100). -/
def afterConfirm (k : State → State) (st : Byte) (s : State) : State :=
  if wen st then k { s with weArmed := true } else raiseFault .handshakeFailure s

/-- `rdsr()`: one status-read frame, its status byte given to what comes next (R87). -/
def readStatusThen (k : Byte → State → State) (s : State) : State :=
  let r := sendCommand .rdsr (frameOf s.cfg .opRdsr) s
  k (statusByte r.1) r.2

/-- `wait_ready()` from its start: POLLS is 0 and SEQ is the wait's position (R96). -/
def waitReadyThen (pos : Seq) (k : State → State) (s : State) : State :=
  readStatusThen (afterPoll k) { s with polls := 0, seq := pos }

/-- The confirmation of `we()`, scope 2 (R99). -/
def confirmThen (pos : Seq) (k : State → State) (s : State) : State :=
  readStatusThen (afterConfirm k) { s with seq := pos }

/-- The WREN frame of `we()`, scope 1 (R99). -/
def sendWren (s : State) : State := (sendCommand .wren (frameOf s.cfg .opWren) s).2

/-- `we()`: WREN frame, then the confirmation (R99). -/
def writeEnableThen (atEnable atConfirm : Seq) (k : State → State) (s : State) : State :=
  confirmThen atConfirm k (sendWren { s with seq := atEnable })

/-- A PROGRAM frame (R90, R104). -/
def sendProgram (addr : Addr) (data : List Byte) (s : State) : State :=
  (sendCommand .program (frameOf s.cfg (.opProgram addr data)) s).2

/-- The program frame of chunk k (R104, R105). -/
def sendChunk (addr : Addr) (data : List Byte) (k : Nat) (s : State) : State :=
  sendProgram (chunkAddr s.cfg addr k) (chunkData s.cfg data k) { s with seq := .chunk k .send addr data }

/-- The write-enable and the program frame of chunk k (R104). -/
def enableAndSend (addr : Addr) (data : List Byte) (k : Nat) (next : State → State) (s : State) : State :=
  writeEnableThen (.chunk k .enable addr data) (.chunk k .confirm addr data) (fun s => next (sendChunk addr data k s)) s

/-- The chunk loop over the chunks still to do; no wait follows the last one (R104, R109). -/
def runChunks (addr : Addr) (data : List Byte) : List Nat → State → State
  | [], s => finish s
  | k :: ks, s => waitReadyThen (.chunk k .wait addr data) (enableAndSend addr data k (runChunks addr data ks)) s

/-- The chunks after chunk k (R107). -/
def chunksAfter (cfg : Config) (data : List Byte) (k : Nat) : List Nat :=
  List.range' (k + 1) (chunkCount cfg data.length - (k + 1))

/-- The chunk loop after chunk k's program frame. -/
def nextChunks (addr : Addr) (data : List Byte) (k : Nat) (s : State) : State :=
  runChunks addr data (chunksAfter s.cfg data k) s

/-! ### What follows a wire frame, by SEQ (R14) -/

/-- After a status-read frame: the poll, the confirmation, or READ_STATUS's response. -/
def goOnAfterStatus (st : Byte) (s : State) : State :=
  match s.seq with
  | .poll _ => afterPoll finish st s
  | .confirm => afterConfirm finish st s
  | .chunk k .wait addr data => afterPoll (enableAndSend addr data k (nextChunks addr data k)) st s
  | .chunk k .confirm addr data => afterConfirm (fun s => nextChunks addr data k (sendChunk addr data k s)) st s
  | .chunk _ .enable _ _ | .chunk _ .send _ _ | .idle | .setOe _ | .setCs _ | .xfer _ | .command _ | .erase _ | .enable =>
    respond (.status st) s

/-- After a WREN frame: the confirmation (R99). -/
def goOnAfterWren (s : State) : State :=
  match s.seq with
  | .enable => confirmThen .confirm finish s
  | .chunk k .enable addr data =>
    confirmThen (.chunk k .confirm addr data) (fun s => nextChunks addr data k (sendChunk addr data k s)) s
  | .chunk _ .wait _ _ | .chunk _ .confirm _ _ | .chunk _ .send _ _ | .idle | .setOe _ | .setCs _ | .xfer _ | .command _ | .erase _
  | .poll _ | .confirm => finish s

/-- After an erase frame: the busy wait (R101, R102). -/
def goOnAfterErase (s : State) : State :=
  match s.seq with
  | .erase e => waitReadyThen (.poll (.erase e)) finish s
  | .idle | .setOe _ | .setCs _ | .xfer _ | .command _ | .poll _ | .enable | .confirm | .chunk _ _ _ _ => finish s

/-- After a program frame: the next chunk, or PROGRAM's response (R90, R104). -/
def goOnAfterProgram (s : State) : State :=
  match s.seq with
  | .chunk k .send addr data => nextChunks addr data k s
  | .chunk _ .wait _ _ | .chunk _ .enable _ _ | .chunk _ .confirm _ _ | .idle | .setOe _ | .setCs _ | .xfer _ | .command _ | .erase _
  | .poll _ | .enable | .confirm => finish s

/-! ### The fetch -/

/-- The request SEQ names at a position with no wire frame: one of the transceiver's three; none at any other position (R14). -/
def pendingRequest : Seq → Option Instr
  | .setOe en => some (.setOe en)
  | .setCs a => some (.setCs a)
  | .xfer out => some (.xfer out)
  | .idle | .command _ | .erase _ | .poll _ | .enable | .confirm | .chunk _ _ _ _ => none

/-- The bytes of the wire frame SEQ names as the next to send; none when idle or at a position with no wire frame (R14, R58). -/
def pendingFrame (cfg : Config) : Seq → Option (List Byte)
  | .idle | .setOe _ | .setCs _ | .xfer _ => none
  | .command bytes => some bytes
  | .erase .all => some (frameOf cfg .opEraseAll)
  | .erase (.page p) => some (frameOf cfg (.opErasePage p))
  | .poll _ | .confirm => some (frameOf cfg .opRdsr)
  | .enable => some (frameOf cfg .opWren)
  | .chunk _ .wait _ _ | .chunk _ .confirm _ _ => some (frameOf cfg .opRdsr)
  | .chunk _ .enable _ _ => some (frameOf cfg .opWren)
  | .chunk k .send addr data => some (frameOf cfg (.opProgram (chunkAddr cfg addr k) (chunkData cfg data k)))

/-- The refusal of a request that does not decode (R65, R66, R115). -/
def decodeRefusal : DecodeError → RefusalReason
  | .malformedRequest => .malformedRequest
  | .unknownRequest | .unknownOpcode | .malformedFrame => .unknownRequest

end Sys2Proof.Machine
end

