-- ==== Sys2Proof/Machine/Wire.lean ====
section
/-! DEFINITION. The eight wire commands (R58): each one command frame, after the checks that every frame is behind (R83), then what
SEQ says comes next. A request of the block sends them by the same operations (log 7). -/

namespace Sys2Proof.Machine

/-- The RDSR frame and what follows it (R87). -/
def issueRdsr (s : State) : State := readStatusThen goOnAfterStatus s

/-- The WREN frame and what follows it (R99). -/
def issueWren (s : State) : State := goOnAfterWren (sendWren s)

/-- The WRDIS frame (R88). -/
def issueWrdis (s : State) : State := finish (sendCommand .wrdis (frameOf s.cfg .opWrdis) s).2

/-- The WRSR frame (R86). -/
def issueWrsr (flag : Byte) (s : State) : State := finish (sendCommand .wrsr (frameOf s.cfg (.opWrsr flag)) s).2

/-- The ERASE_PAGE frame and what follows it (R102). -/
def issueErasePage (page : Byte) (s : State) : State :=
  goOnAfterErase (sendCommand .erasePage (frameOf s.cfg (.opErasePage page)) s).2

/-- The ERASE_ALL frame and what follows it (R101). -/
def issueEraseAll (s : State) : State := goOnAfterErase (sendCommand .eraseAll (frameOf s.cfg .opEraseAll) s).2

/-- The PROGRAM frame and what follows it (R90, R104). -/
def issueProgram (addr : Addr) (data : List Byte) (s : State) : State := goOnAfterProgram (sendProgram addr data s)

/-- The READ frame; the bytes after the header are the result (R89). -/
def issueRead (addr : Addr) (count : Nat) (s : State) : State :=
  let r := sendCommand .read (frameOf s.cfg (.opRead addr count)) s
  respond (.bytes (readData r.1)) r.2

/-- `OP_RDSR` (R58, R87). -/
def execOpRdsr (s : State) : Host.Outcome State Fault Refusal := .next (commandChecks issueRdsr s)

/-- `OP_WREN` (R58, R99). -/
def execOpWren (s : State) : Host.Outcome State Fault Refusal := .next (commandChecks issueWren s)

/-- `OP_WRDIS` (R58, R88). -/
def execOpWrdis (s : State) : Host.Outcome State Fault Refusal := .next (commandChecks issueWrdis s)

/-- `OP_WRSR` (R58, R86). -/
def execOpWrsr (flag : Byte) (s : State) : Host.Outcome State Fault Refusal := .next (commandChecks (issueWrsr flag) s)

/-- `OP_ERASE_PAGE` (R58, R102). -/
def execOpErasePage (page : Byte) (s : State) : Host.Outcome State Fault Refusal :=
  .next (commandChecks (issueErasePage page) s)

/-- `OP_ERASE_ALL` (R58, R101). -/
def execOpEraseAll (s : State) : Host.Outcome State Fault Refusal := .next (commandChecks issueEraseAll s)

/-- `OP_PROGRAM` (R58, R90). -/
def execOpProgram (addr : Addr) (data : List Byte) (s : State) : Host.Outcome State Fault Refusal :=
  .next (commandChecks (issueProgram addr data) s)

/-- `OP_READ` (R58, R89). -/
def execOpRead (addr : Addr) (count : Nat) (s : State) : Host.Outcome State Fault Refusal :=
  .next (commandChecks (issueRead addr count) s)

end Sys2Proof.Machine
end

