-- ==== Sys2Proof/Machine/Commands.lean ====
section
/-! DEFINITION. The single-frame requests SELECT_REGION, READ_STATUS, WRITE_DISABLE, READ and PROGRAM (41_flash_commands.md). Each
puts SEQ at its one frame and sends it. -/

namespace Sys2Proof.Machine

/-- SEQ at the one frame of a single-frame request (R14, R91). -/
def atCommand (i : Instr) (s : State) : State := { s with seq := .command (frameOf s.cfg i) }

/-- `SELECT_REGION info` (R86). -/
def execSelectRegion (info : Bool) (s : State) : Host.Outcome State Fault Refusal :=
  .next (commandChecks (fun s => issueWrsr (flagByte s.cfg info) (atCommand (.opWrsr (flagByte s.cfg info)) s)) s)

/-- `READ_STATUS` (R87). -/
def execReadStatus (s : State) : Host.Outcome State Fault Refusal :=
  .next (commandChecks (fun s => issueRdsr (atCommand .opRdsr s)) s)

/-- `WRITE_DISABLE` (R88). -/
def execWriteDisable (s : State) : Host.Outcome State Fault Refusal :=
  .next (commandChecks (fun s => issueWrdis (atCommand .opWrdis s)) s)

/-- `READ addr, count` (R89). -/
def execRead (addr : Addr) (count : Nat) (s : State) : Host.Outcome State Fault Refusal :=
  .next (commandChecks (fun s => issueRead addr count (atCommand (.opRead addr count) s)) s)

/-- `PROGRAM addr, data` (R90). -/
def execProgram (addr : Addr) (data : List Byte) (s : State) : Host.Outcome State Fault Refusal :=
  .next (commandChecks (fun s => issueProgram addr data (atCommand (.opProgram addr data) s)) s)

end Sys2Proof.Machine
end

