-- ==== Sys2Proof/Machine/Sequencer.lean ====
section
/-! DEFINITION. The sequenced requests WAIT_READY, WRITE_ENABLE, ERASE_ALL, ERASE_PAGE and PROGRAM_CHUNKED
(42_busy_we_sequencer.md). Each runs to its response, or to a poll that finds the device busy; the step then goes on from the
position in SEQ (log 6). -/

namespace Sys2Proof.Machine

/-- `WAIT_READY` (R96). -/
def execWaitReady (s : State) : Host.Outcome State Fault Refusal :=
  .next (commandChecks (waitReadyThen (.poll .waitReady) finish) s)

/-- `WRITE_ENABLE` (R99). -/
def execWriteEnable (s : State) : Host.Outcome State Fault Refusal :=
  .next (commandChecks (writeEnableThen .enable .confirm finish) s)

/-- `ERASE_ALL` (R101). -/
def execEraseAll (s : State) : Host.Outcome State Fault Refusal :=
  .next (commandChecks (fun s => issueEraseAll { s with seq := .erase .all }) s)

/-- `ERASE_PAGE page` (R102). -/
def execErasePage (page : Byte) (s : State) : Host.Outcome State Fault Refusal :=
  .next (commandChecks (fun s => issueErasePage page { s with seq := .erase (.page page) }) s)

/-- The body of PROGRAM_CHUNKED: the range check, then the chunk loop (R104, R115). -/
def programChunks (addr : Addr) (data : List Byte) (s : State) : State :=
  if outOfRange addr data then refuse .argumentRange s
  else runChunks addr data (List.range (chunkCount s.cfg data.length)) s

/-- `PROGRAM_CHUNKED addr, data` (R104). -/
def execProgramChunked (addr : Addr) (data : List Byte) (s : State) : Host.Outcome State Fault Refusal :=
  .next (commandChecks (programChunks addr data) s)

end Sys2Proof.Machine
end

