-- ==== Sys2Proof/Machine/Transceiver.lean ====
section
/-! DEFINITION. The transceiver requests SET_OE, SET_CS and XFER (40_transceiver.md). -/

namespace Sys2Proof.Machine

/-- Acquire the bus: the four lines in the order of R70, then `OE <- 1` (R69). -/
def enableBus (s : State) : State :=
  let s := configureOut .sck false s
  let s := configureOut .mosi false s
  let s := configureOut .csn (csLevel s.cfg false) s
  let s := configureIn .miso s
  { s with oe := true, csAsserted := false }

/-- Release the bus: four inputs in the order of R71, then `OE <- 0`; the latches keep their values, which nothing reads
(R69; log 12). -/
def releaseBus (s : State) : State :=
  let s := configureIn .sck s
  let s := configureIn .mosi s
  let s := configureIn .csn s
  let s := configureIn .miso s
  { s with oe := false, csAsserted := false }

/-- SET_OE past its check: SEQ names it, the bus is switched, `Done` (R14, R69). -/
def hostSetOe (en : Bool) (s : State) : State :=
  let s := { s with seq := .setOe en }
  finish (if en then enableBus s else releaseBus s)

/-- `SET_OE en` (R69). -/
def execSetOe (en : Bool) (s : State) : Host.Outcome State Fault Refusal := .next (sessionCheck (hostSetOe en) s)

/-- SET_CS past its checks: SEQ names it, the line is driven, `Done` (R14, R72). -/
def hostSetCs (a : Bool) (s : State) : State := finish (csWrite a { s with seq := .setCs a })

/-- `SET_CS a` (R72). -/
def execSetCs (a : Bool) (s : State) : Host.Outcome State Fault Refusal := .next (busChecks (hostSetCs a) s)

/-- XFER past its checks: SEQ names it, the byte is exchanged, the ghost WE_ARMED is cleared, the response is the byte received
(R14, R74, R85). -/
def hostXfer (out : Byte) (s : State) : State :=
  let s := xferByte out { s with seq := .xfer out }
  respond (.byte s.shiftIn) { s with weArmed := false }

/-- `XFER out` (R74). -/
def execXfer (out : Byte) (s : State) : Host.Outcome State Fault Refusal :=
  .next (busChecks (hostXfer out) s)

end Sys2Proof.Machine
end

