-- ==== Sys2Proof/Machine/Dispatch.lean ====
section
/-! DEFINITION. One arm per constructor of Instr. -/

namespace Sys2Proof.Machine

def exec (i : Instr) (s : State) : Host.Outcome State Fault Refusal :=
  match i with
  -- wire commands
  | .opRdsr => Sys2Proof.Machine.execOpRdsr s
  | .opWren => Sys2Proof.Machine.execOpWren s
  | .opWrdis => Sys2Proof.Machine.execOpWrdis s
  | .opWrsr flag => Sys2Proof.Machine.execOpWrsr flag s
  | .opErasePage page => Sys2Proof.Machine.execOpErasePage page s
  | .opEraseAll => Sys2Proof.Machine.execOpEraseAll s
  | .opProgram addr data => Sys2Proof.Machine.execOpProgram addr data s
  | .opRead addr count => Sys2Proof.Machine.execOpRead addr count s
  -- transceiver requests
  | .setOe en => Sys2Proof.Machine.execSetOe en s
  | .setCs a => Sys2Proof.Machine.execSetCs a s
  | .xfer out => Sys2Proof.Machine.execXfer out s
  -- single-frame requests
  | .selectRegion info => Sys2Proof.Machine.execSelectRegion info s
  | .readStatus => Sys2Proof.Machine.execReadStatus s
  | .writeDisable => Sys2Proof.Machine.execWriteDisable s
  | .read addr count => Sys2Proof.Machine.execRead addr count s
  | .program addr data => Sys2Proof.Machine.execProgram addr data s
  -- sequenced requests
  | .waitReady => Sys2Proof.Machine.execWaitReady s
  | .writeEnable => Sys2Proof.Machine.execWriteEnable s
  | .eraseAll => Sys2Proof.Machine.execEraseAll s
  | .erasePage page => Sys2Proof.Machine.execErasePage page s
  | .programChunked addr data => Sys2Proof.Machine.execProgramChunked addr data s

end Sys2Proof.Machine
end

