-- ==== Sys2Proof/Machine/Step.lean ====
section
/-! DEFINITION. One step of the block: what SEQ names, or the next host move, or waiting for one. -/

namespace Sys2Proof.Machine

/-- Take up a request the host presents: decode it and run it, or refuse it by the decoder's reason (R64, R115, R122). -/
def takeRequest (r : Request) (s : State) : Host.Outcome State Fault Refusal :=
  match decodeRequest r with
  | .ok i => exec i s
  | .error e => .next (refuse (decodeRefusal e) s)

/-- The step at Idle: the host's next move, taken off the queue; with none the block waits (R132, R133; log 5). -/
def hostStep (s : State) : Host.Outcome State Fault Refusal :=
  match s.hostQueue with
  | [] => .next s
  | .present r :: rest => takeRequest r { s with hostQueue := rest }
  | .reset :: rest => .next (sessionReset { s with hostQueue := rest })

/-- The step at a position of a frame request: the wire frame SEQ names is decoded and run (R14; log 6 and 7). -/
def frameStep (bytes : List Byte) (s : State) : Host.Outcome State Fault Refusal :=
  match decodeFrame s.cfg bytes with
  | .ok i => exec i s
  | .error _ => .fault .notACommandFrame

/-- One step. At the position of a transceiver request, where no step of the block ends, that request runs (log 20). -/
def step (s : State) : Host.Outcome State Fault Refusal :=
  match pendingRequest s.seq, pendingFrame s.cfg s.seq with
  | some i, _ => exec i s
  | none, some bytes => frameStep bytes s
  | none, none => hostStep s

/-- `s` with a table row's instruction where the next step takes its instruction from: a request in front of the host's queue,
or a wire frame at SEQ (log 15). A program comes to run from reset by such a placing and by no step of the machine (log 21). -/
def State.withFetchWord (s : State) (nbits w : Nat) : State :=
  match tableCode s.cfg nbits w with
  | .request r => { s with seq := .idle, hostQueue := .present r :: s.hostQueue }
  | .frame bytes => { s with seq := .command bytes }

end Sys2Proof.Machine
end

