-- ==== Sys2Proof/Safety.lean ====
section
/-! DEFINITION. The terms claims are stated in: what a frame puts on the wire and leaves in the pins, in closed form; what an SPI device
reads from the pin events; the checks that hold before a frame; the invariants; the end of a session. Nothing here is used by the machine. -/

namespace Sys2Proof.Machine

/-! ### Bytes received and events performed -/

/-- The byte whose bits are eight levels, the first one bit 7: the sum of `s_k * 2^(7-k)` (R80). -/
def byteOf (l : Nat → Level) : Byte :=
  BitVec.ofNat 8 ((l 0).toNat * 128 + (l 1).toNat * 64 + (l 2).toNat * 32 + (l 3).toNat * 16 + (l 4).toNat * 8 + (l 5).toNat * 4
    + (l 6).toNat * 2 + (l 7).toNat)

/-- The k-th byte the device is going to send, counted from the next sample: made of the levels MISO will hold (R19, R80). -/
def State.byteIn (s : State) (k : Nat) : Byte := byteOf fun j => s.level (8 * k + j)

/-- The next n bytes the device is going to send. -/
def State.bytesIn (s : State) (n : Nat) : List Byte := (List.range n).map s.byteIn

/-- The events of bit k of an exchange of `out` in which the samples are the levels `l` (R75). -/
def bitEvents (out : Byte) (l : Nat → Level) (k : Nat) : List Event :=
  [.drive .sck false, .drive .mosi (out.getLsbD (7 - k)), .delay .bitSetup, .sample .miso (l k), .drive .sck true,
    .delay .bitHold, .drive .sck false]

/-- The 56 events of one exchange (R75). -/
def byteEvents (out : Byte) (l : Nat → Level) : List Event := [0, 1, 2, 3, 4, 5, 6, 7].flatMap (bitEvents out l)

/-- The events of the exchanges of a byte sequence, in order. -/
def exchangeEvents : List Byte → (Nat → Level) → List Event
  | [], _ => []
  | b :: bs, l => byteEvents b l ++ exchangeEvents bs fun j => l (j + 8)

/-- The events of a frame (R83). -/
def frameEvents (cfg : Config) (bytes : List Byte) (l : Nat → Level) : List Event :=
  [.drive .csn cfg.csActiveLevel, .delay .cs] ++ exchangeEvents bytes l ++ [.drive .csn (!cfg.csActiveLevel), .delay .cs]

/-- The state after one exchange of `out`, in closed form (R75, R79, R80). -/
def State.afterByte (out : Byte) (s : State) : State :=
  { s with
    sckQ := false, mosiQ := out.getLsbD 0, shiftOut := out, shiftIn := s.byteIn 0, bitCnt := 8
    trace := s.trace ++ byteEvents out s.level, misoIn := s.misoIn.drop 8, draws := s.draws + 8 }

/-- The state after a frame of `bytes` (not empty), in closed form: CSN de-asserted, SCK low, MOSI at bit 0 of the last byte (R83, R84). -/
def State.afterFrame (bytes : List Byte) (s : State) : State :=
  { s with
    csnQ := !s.cfg.csActiveLevel, csAsserted := false, sckQ := false, mosiQ := (bytes.getLastD 0).getLsbD 0
    shiftOut := bytes.getLastD 0, shiftIn := s.byteIn (bytes.length - 1), bitCnt := 8
    trace := s.trace ++ frameEvents s.cfg bytes s.level
    misoIn := s.misoIn.drop (8 * bytes.length), draws := s.draws + 8 * bytes.length }

/-- The state after several frames, one after the other. -/
def State.afterFrames (frames : List (List Byte)) (s : State) : State := frames.foldl (fun s f => s.afterFrame f) s

/-- The frames of one chunk of PROGRAM_CHUNKED whose wait ends at its first poll (R104). -/
def chunkFrames (cfg : Config) (addr : Addr) (data : List Byte) (k : Nat) : List (List Byte) :=
  [[cfg.opRdsr, cfg.dummy], [cfg.opWren], [cfg.opRdsr, cfg.dummy],
    [cfg.opProgram] ++ addrBytes (chunkAddr cfg addr k) ++ chunkData cfg data k]

/-! ### What an SPI device reads -/

/-- What a device on the lines knows: the levels, the bits of the open exchange, the frames finished. -/
structure Observer where
  sck : Level
  mosi : Level
  csn : Level
  bits : List Level
  frames : List (List Byte)
  deriving DecidableEq, Repr

/-- Bits in the order received, cut into bytes, the first bit of each one bit 7 (R38); bits that do not fill a byte are dropped. -/
def bytesOfBits : List Level → List Byte
  | a :: b :: c :: d :: e :: f :: g :: h :: rest =>
    (BitVec.ofBool a ++ BitVec.ofBool b ++ BitVec.ofBool c ++ BitVec.ofBool d ++ BitVec.ofBool e ++ BitVec.ofBool f
      ++ BitVec.ofBool g ++ BitVec.ofBool h : BitVec 8) :: bytesOfBits rest
  | _ => []

/-- A device that takes MOSI at each rising edge of SCK while chip-select is asserted, begins a frame at the assertion edge and ends it at
the de-assertion edge (R52, R78). -/
def Observer.see (cfg : Config) (o : Observer) : Event → Observer
  | .drive .sck l => { o with sck := l, bits := if l && !o.sck && o.csn == cfg.csActiveLevel then o.bits ++ [o.mosi] else o.bits }
  | .drive .mosi l => { o with mosi := l }
  | .drive .csn l =>
    if l == o.csn then o
    else if l == cfg.csActiveLevel then { o with csn := l, bits := [] }
    else { o with csn := l, bits := [], frames := o.frames ++ [bytesOfBits o.bits] }
  | .drive .miso _ | .configure _ _ _ | .sample _ _ | .delay _ => o

/-- The frames a device reads from events, starting from the levels of the lines. -/
def framesSeen (cfg : Config) (sck mosi csn : Level) (events : List Event) : List (List Byte) :=
  (events.foldl (Observer.see cfg) { sck := sck, mosi := mosi, csn := csn, bits := [], frames := [] }).frames

/-- Rising and falling edges of SCK in events, from a starting level. -/
def sckEdges : Level → List Event → Nat × Nat
  | _, [] => (0, 0)
  | l, .drive .sck l' :: es =>
    let r := sckEdges l' es
    (r.1 + (!l && l').toNat, r.2 + (l && !l').toNat)
  | l, .drive .mosi _ :: es | l, .drive .csn _ :: es | l, .drive .miso _ :: es | l, .configure _ _ _ :: es | l, .sample _ _ :: es
  | l, .delay _ :: es => sckEdges l es

/-- Is the event a delay? -/
def Event.isDelay : Event → Bool
  | .delay _ => true
  | .configure _ _ _ | .drive _ _ | .sample _ _ => false

/-- The milliseconds an event waits under a configuration: a `Delay(T)` waits for its parameter (R9), nothing else waits. -/
def Event.wait (cfg : Config) : Event → Nat
  | .delay d => cfg.delay d
  | .configure _ _ _ | .drive _ _ | .sample _ _ => 0

/-- The levels sampled in events, in order. -/
def samplesOf (events : List Event) : List Level :=
  events.filterMap fun e =>
    match e with
    | .sample _ l => some l
    | .configure _ _ _ | .drive _ _ | .delay _ => none

/-- MISO is wired to MOSI: each sample is the level MOSI was last driven to, from a starting level of MOSI (R81). -/
def samplesEchoMosi : Level → List Event → Bool
  | _, [] => true
  | _, .drive .mosi l' :: es => samplesEchoMosi l' es
  | l, .sample _ v :: es => v == l && samplesEchoMosi l es
  | l, .drive .sck _ :: es | l, .drive .csn _ :: es | l, .drive .miso _ :: es | l, .configure _ _ _ :: es | l, .delay _ :: es =>
    samplesEchoMosi l es

/-- The one frame of a single-frame request (R58, R91); none for another instruction. -/
def singleFrame (cfg : Config) : Instr → Option (List Byte)
  | .selectRegion info => some [cfg.opWrsr, if info then cfg.infenFlag else 0x00]
  | .readStatus => some [cfg.opRdsr, cfg.dummy]
  | .writeDisable => some [cfg.opWrdis]
  | .read addr count => some ([cfg.opRead, addr.extractLsb' 8 8, addr.extractLsb' 0 8] ++ List.replicate count cfg.dummy)
  | .program addr data => some ([cfg.opProgram, addr.extractLsb' 8 8, addr.extractLsb' 0 8] ++ data)
  | _ => none

/-- The bits of a byte in the order they go over a line, bit 7 first (R38). -/
def wireBits (b : Byte) : List Level := [7, 6, 5, 4, 3, 2, 1, 0].map b.getLsbD

/-! ### Line levels the trace shows -/

/-- The level last given to an output line by the events, if any (R18). -/
def lastLevel (p : Pin) : List Event → Option Level
  | [] => none
  | e :: es =>
    match lastLevel p es with
    | some l => some l
    | none =>
      match e with
      | .drive q l => if q = p then some l else none
      | .configure q .output (some l) => if q = p then some l else none
      | .configure _ .output none | .configure _ .input _ | .sample _ _ | .delay _ => none

/-- MOSI is driven only while SCK is low, from a starting level of SCK (R78). -/
def mosiChangesWhileLow : Level → List Event → Bool
  | _, [] => true
  | _, .drive .sck l' :: es => mosiChangesWhileLow l' es
  | l, .drive .mosi _ :: es => !l && mosiChangesWhileLow l es
  | _, .configure .sck .output (some l') :: es => mosiChangesWhileLow l' es
  | l, _ :: es => mosiChangesWhileLow l es

/-! ### Checks, invariants, ends -/

/-- A frame may start: the three checks of `command_checks()` pass (R114). -/
abbrev State.Ready (s : State) : Prop := s.fault = none ∧ s.oe = true ∧ s.csAsserted = false

/-- The refusal `command_checks()` makes, in its order; none when it passes (R114). -/
def State.checkRefusal (s : State) : Option RefusalReason :=
  if s.fault ≠ none then some .sessionAborted
  else if s.oe = false then some .busNotAcquired
  else if s.csAsserted = true then some .frameOpen
  else none

/-- An instruction refused with a reason: the response, and nothing else but SEQ at Idle (R115). -/
abbrev State.RefusedBy (s : State) (i : Instr) (reason : RefusalReason) : Prop :=
  exec i s = .next { s with responses := s.responses ++ [.refused reason], seq := .idle }

/-- The outcome of a poll whose status is `st`, at a state `t` in which the poll is counted: ready ends the request with `Done`, an exhausted
bound faults, else the wait goes on (R96, R98). -/
def State.afterLastPoll (t : State) (st : Byte) : State :=
  if busy st = false then { t with responses := t.responses ++ [.done], seq := .idle }
  else if t.cfg.pollLimit.any fun n => decide (n ≤ t.polls) then
    { t with fault := some .deviceUnresponsive, responses := t.responses ++ [.faulted .deviceUnresponsive], seq := .idle }
  else t

/-- A host move that is a reset is the next thing the step takes. -/
abbrev State.ResetNext (s : State) : Prop := s.seq = .idle ∧ s.hostQueue.head? = some .reset

/-- The block is between two frames of a busy wait: the only position other than Idle at which a step of the block ends. -/
def Seq.isWait : Seq → Bool
  | .poll _ => true
  | .chunk _ .wait _ _ => true
  | .chunk _ .enable _ _ | .chunk _ .confirm _ _ | .chunk _ .send _ _ | .idle | .setOe _ | .setCs _ | .xfer _ | .command _ | .erase _
  | .enable | .confirm => false

/-- The pins' invariant: chip-select and latches agree while the bus is driven (R20), SCK rests low (R77), no chip-select is
asserted on a released bus (R20, R34), BITCNT is in its range (R21). -/
structure State.PinsInv (s : State) : Prop where
  csAgrees : s.oe = true → s.csAsserted = (s.csnQ == s.cfg.csActiveLevel)
  sckLow : s.oe = true → s.sckQ = false
  releasedNotAsserted : s.oe = false → s.csAsserted = false
  bitCntRange : s.bitCnt ≤ 8

/-- The sequencer's invariant: a step ends at Idle or in a busy wait (R14); a busy wait has the bus driven with no frame open and no fault (R114);
a fault leaves the bus driven, chip-select de-asserted (R124); an unresponsive device is a fault of a bounded wait only (R121). -/
structure State.SeqInv (s : State) : Prop where
  position : s.seq = .idle ∨ s.seq.isWait = true
  waitReady : s.seq ≠ .idle → s.Ready
  faultDriven : s.fault ≠ none → s.oe = true ∧ s.csAsserted = false
  unresponsiveBounded : s.fault = some .deviceUnresponsive → s.cfg.pollLimit ≠ none

/-- The trace's invariant: while the bus is driven each latch is the level the trace last gave its line (R18), and MOSI has changed only
while SCK was low (R78). -/
structure State.TraceInv (s : State) : Prop where
  sckShown : s.oe = true → lastLevel .sck s.trace = some s.sckQ
  mosiShown : s.oe = true → lastLevel .mosi s.trace = some s.mosiQ
  csnShown : s.oe = true → lastLevel .csn s.trace = some s.csnQ
  mosiQuiet : mosiChangesWhileLow false s.trace = true

/-- The clean end of a session (R144). -/
abbrev State.CleanEnd (s : State) : Prop := s.oe = false ∧ s.fault = none ∧ s.seq = .idle ∧ s.hostQueue = []

/-- No protocol obligation violated and no fault: what a claim about a well-run session may take as its premise (R26, R111). -/
abbrev State.Safe (s : State) : Prop := s.fault = none ∧ s.obligationViolated = false

end Sys2Proof.Machine
end

