-- ==== Sys2Proof/Certificates/Slice0/Obligations.lean ====
section
/-! DEFINITION. The statements for the provers. Each docstring names the rules it formalises. `s.byteIn k` is the k-th byte the device is going
to send, `s.level k` the k-th level MISO will hold: whatever they are, since a statement holds for every state. -/

open Sys2Proof Sys2Proof.Machine

/-! ### Encodings -/

/-- Decoding what the encoder makes of a well-formed instruction gives it back, under every well-formed configuration (R54, R58, R64, R65). -/
def Obligations.EncodedInstructionsDecodeBack : Prop :=
  ∀ (cfg : Config) (i : Instr), cfg.wf = true → i.wf cfg = true → decode cfg (encode cfg i) = .ok i

/-- A header word that decodes has every bit where its request's encoding puts it: no bit of a word is dropped (R65). -/
def Obligations.HeaderWordHasOneMeaning : Prop :=
  ∀ (r : Request) (i : Instr), decodeRequest r = .ok i → (requestFor i).header = r.header

/-- A frame that decodes is the frame of the instruction it decodes to (R53, R58). -/
def Obligations.FrameHasOneMeaning : Prop :=
  ∀ (cfg : Config) (bytes : List Byte) (i : Instr), decodeFrame cfg bytes = .ok i → frameOf cfg i = bytes

/-- A few words of the opcode table, written out, decode to the instruction they stand for (R65, R66). The model's choices here: that a one-byte word is
laid out as the command's shortest frame with 0 bytes after the opcode, and a longer one as a header with an empty payload (log 15), and the
opcode bytes (log 2, PRESUMED). -/
def Obligations.TableWordsDecode : Prop :=
  decodeTableWord 8 0b00000101 = some .opRdsr ∧ decodeTableWord 8 0b01010010 = some (.opErasePage 0) ∧
    decodeTableWord 32 0b00000000000000000000000000010001 = some (.setOe true) ∧
    decodeTableWord 32 0b00000000000000001010010100000011 = some (.xfer 0xA5) ∧
    decodeTableWord 32 0b01111000000000000000000000001101 = some (.programChunked 0x7800 []) ∧
    decodeTableWord 16 0b0000000000000111 = some (.read 0 0) ∧ decodeTableWord 16 0b0000000000001000 = some (.program 0 []) ∧
    decodeTableWord 16 0b0000000000001101 = some (.programChunked 0 []) ∧
    decodeTableWord 32 0b00000000000000000000000000100101 = none ∧ decodeTableWord 32 0b00000000000000000000000000001110 = none

/-- Codes 0x0, 0xE and 0xF are refused with `UnknownRequest`, no pin event and no state change (R66). -/
def Obligations.UnassignedCodesAreRefused : Prop :=
  ∀ (s : State) (r : Request) (rest : List HostMove), s.seq = .idle → s.hostQueue = .present r :: rest →
    (hdrCode r.header = 0x0 ∨ hdrCode r.header = 0xE ∨ hdrCode r.header = 0xF) →
    step s = .next { s with hostQueue := rest, responses := s.responses ++ [.refused .unknownRequest] }

/-- An assigned code with a reserved bit set, or with a flag, byte or address field the request does not use not 0, is refused with
`MalformedRequest` (R65, R115). -/
def Obligations.MalformedHeadersAreRefused : Prop :=
  ∀ (s : State) (r : Request) (rest : List HostMove), s.seq = .idle → s.hostQueue = .present r :: rest →
    (0x1 ≤ hdrCode r.header ∧ hdrCode r.header ≤ 0xD) →
    (hdrReserved r.header ≠ 0 ∨
      (hdrFlag r.header = true ∧ hdrCode r.header ≠ 0x1 ∧ hdrCode r.header ≠ 0x2 ∧ hdrCode r.header ≠ 0x4) ∨
      (hdrByte r.header ≠ 0 ∧ hdrCode r.header ≠ 0x3 ∧ hdrCode r.header ≠ 0xC) ∨
      (hdrAddr r.header ≠ 0 ∧ hdrCode r.header ≠ 0x7 ∧ hdrCode r.header ≠ 0x8 ∧ hdrCode r.header ≠ 0xD)) →
    step s = .next { s with hostQueue := rest, responses := s.responses ++ [.refused .malformedRequest] }

/-! ### Reset, the step, the checks -/

/-- The fields to which R34 gives a value have it after reset. The latches and shift registers are unspecified there and not claimed. -/
def Obligations.ResetStateIsTheTables : Prop :=
  State.reset.oe = false ∧ State.reset.csAsserted = false ∧ State.reset.bitCnt = 0 ∧ State.reset.fault = none ∧ State.reset.polls = 0 ∧
    State.reset.seq = .idle ∧ State.reset.weArmed = false ∧ State.reset.lastRdyn = true ∧ State.reset.obligationViolated = false ∧
    State.reset.trace = []

/-- Reset gives the values of R34 with no pin event, the latches and shift registers not claimed; it alone clears FAULT and
OBLIGATION_VIOLATED; after it the block waits for a request (R133). -/
def Obligations.ResetStartsNewSession : Prop :=
  (∀ (s : State) (rest : List HostMove), s.seq = .idle → s.hostQueue = .reset :: rest →
      ∃ t, step s = .next t ∧ t.oe = false ∧ t.csAsserted = false ∧ t.bitCnt = 0 ∧ t.fault = none ∧ t.polls = 0 ∧ t.seq = .idle ∧
        t.weArmed = false ∧ t.lastRdyn = true ∧ t.obligationViolated = false ∧ t.trace = [] ∧ (rest = [] → step t = .next t)) ∧
    ∀ s t : State, step s = .next t → ¬ s.ResetNext →
      (s.fault ≠ none → t.fault = s.fault) ∧ (s.obligationViolated = true → t.obligationViolated = true)

/-- At Idle the step runs what the next request decodes to, taken off the host's queue (R14, R64; that the host is a queue is the model's choice, log 5).
The other two clauses are the model's choice: that the wire frame pending at SEQ is decoded and run as an instruction is log 6 and 7, and that
a step at the position of a transceiver request runs that request from its start is log 20. The third speaks only of positions at which no step
of the block ends (`State.SeqInv.position`). -/
def Obligations.StepRunsDecodedInstruction : Prop :=
  (∀ (s : State) (r : Request) (rest : List HostMove) (i : Instr), s.seq = .idle → s.hostQueue = .present r :: rest →
      decodeRequest r = .ok i → step s = exec i { s with hostQueue := rest }) ∧
    (∀ (s : State) (bytes : List Byte) (i : Instr), pendingFrame s.cfg s.seq = some bytes → decodeFrame s.cfg bytes = .ok i →
      step s = exec i s) ∧
    ∀ (s : State) (i : Instr), pendingRequest s.seq = some i → step s = exec i s

/-- Under a well-formed configuration a step always answers a next state, except at a frame put into SEQ from outside: the block's own
frames are command frames (R62). -/
def Obligations.BlockAlwaysAnswers : Prop :=
  ∀ s : State, s.cfg.wf = true → (∀ bytes, s.seq ≠ .command bytes) → ∃ t, step s = .next t

/-- After a fault every request is refused with `SessionAborted`, SET_OE included, and no step but a reset clears FAULT (R116). -/
def Obligations.FaultedBlockRefusesEverything : Prop :=
  (∀ (i : Instr) (s : State), i.isWire = false → s.fault ≠ none → s.RefusedBy i .sessionAborted) ∧
    (∀ s t : State, step s = .next t → s.fault ≠ none → ¬ s.ResetNext → t.fault = s.fault)

/-- With the bus released every request but SET_OE is refused with `BusNotAcquired` (R117). -/
def Obligations.ReleasedBusRefusesAllButSetOe : Prop :=
  ∀ (i : Instr) (s : State), i.isWire = false → s.fault = none → s.oe = false → (∀ en, i ≠ .setOe en) →
    s.RefusedBy i .busNotAcquired

/-- With a chip-select scope open every frame request is refused with `FrameOpen` (R118). -/
def Obligations.OpenScopeRefusesFrames : Prop :=
  ∀ (i : Instr) (s : State), i.isWire = false → s.fault = none → s.oe = true → s.csAsserted = true →
    (∀ en, i ≠ .setOe en) → (∀ a, i ≠ .setCs a) → (∀ out, i ≠ .xfer out) → s.RefusedBy i .frameOpen

/-- A wire command makes the three checks of a command request again before its frame. That it does is the model's choice (log 7). -/
def Obligations.WireCommandsAreChecked : Prop :=
  ∀ (i : Instr) (s : State) (reason : RefusalReason), i.isWire = true → s.checkRefusal = some reason → s.RefusedBy i reason

/-! ### Transceiver requests -/

/-- SET_OE: its events in order and all it writes; nothing else changes (R69, R70, R71). That SET_OE 0 leaves the three latches as they were is
the model's choice, log 12: R18 leaves the latches of a released bus unspecified. -/
def Obligations.SetOeSwitchesTheBus : Prop :=
  ∀ (en : Bool) (s : State),
    decodeRequest { header := mkHeader 0x1 en 0 0 } = .ok (.setOe en) ∧
    (s.fault ≠ none → s.RefusedBy (.setOe en) .sessionAborted) ∧
    (s.fault = none → exec (.setOe en) s = .next
      (if en then
        { s with
          sckQ := false, mosiQ := false, csnQ := !s.cfg.csActiveLevel, oe := true, csAsserted := false
          trace := s.trace ++ [.configure .sck .output (some false), .configure .mosi .output (some false),
            .configure .csn .output (some (!s.cfg.csActiveLevel)), .configure .miso .input none]
          responses := s.responses ++ [.done], seq := .idle }
      else
        { s with
          oe := false, csAsserted := false
          trace := s.trace ++ [.configure .sck .input none, .configure .mosi .input none, .configure .csn .input none,
            .configure .miso .input none]
          responses := s.responses ++ [.done], seq := .idle }))

/-- SET_CS: one chip-select write and its settle delay, whatever the level was; nothing else changes (R72, R73). -/
def Obligations.SetCsWritesChipSelect : Prop :=
  ∀ (a : Bool) (s : State),
    decodeRequest { header := mkHeader 0x2 a 0 0 } = .ok (.setCs a) ∧
    (s.fault ≠ none → s.RefusedBy (.setCs a) .sessionAborted) ∧
    (s.fault = none → s.oe = false → s.RefusedBy (.setCs a) .busNotAcquired) ∧
    (s.fault = none → s.oe = true → exec (.setCs a) s = .next
      { s with
        csnQ := if a then s.cfg.csActiveLevel else !s.cfg.csActiveLevel, csAsserted := a
        trace := s.trace ++ [.drive .csn (if a then s.cfg.csActiveLevel else !s.cfg.csActiveLevel), .delay .cs]
        responses := s.responses ++ [.done], seq := .idle })

/-- XFER: the exchange in closed form, whatever CS_ASSERTED is: its 56 events, the byte received as the response, the latches and byte
registers it leaves, WE_ARMED cleared; nothing else changes (R74, R75, R79, R80, R85, R119). -/
def Obligations.XferExchangesOneByte : Prop :=
  ∀ (out : Byte) (s : State),
    decodeRequest { header := mkHeader 0x3 false out 0 } = .ok (.xfer out) ∧
    (s.fault ≠ none → s.RefusedBy (.xfer out) .sessionAborted) ∧
    (s.fault = none → s.oe = false → s.RefusedBy (.xfer out) .busNotAcquired) ∧
    (s.fault = none → s.oe = true → exec (.xfer out) s = .next
      { s with
        shiftOut := out, shiftIn := s.byteIn 0, bitCnt := 8, sckQ := false, mosiQ := out.getLsbD 0, weArmed := false
        trace := s.trace ++ byteEvents out s.level, misoIn := s.misoIn.drop 8, draws := s.draws + 8
        responses := s.responses ++ [.byte (s.byteIn 0)], seq := .idle })

/-- Each exchange, of the XFER request and of a frame alike, makes exactly eight rising and eight falling edges on SCK, one pulse per bit, and MOSI
changes only while SCK is low (R78). -/
def Obligations.XferMakesEightClockPulses : Prop :=
  (∀ (out : Byte) (s : State), s.sckQ = false →
    ∃ ev, (xferByte out s).trace = s.trace ++ ev ∧ sckEdges false ev = (8, 8) ∧ mosiChangesWhileLow false ev = true ∧
      (xferByte out s).sckQ = false) ∧
  ∀ (out : Byte) (s : State), s.fault = none → s.oe = true → s.sckQ = false →
    ∃ t ev, exec (.xfer out) s = .next t ∧ t.trace = s.trace ++ ev ∧ sckEdges false ev = (8, 8) ∧
      mosiChangesWhileLow false ev = true ∧ ev.length = 56 ∧ ev.countP Event.isDelay = 16

/-- Loopback: if MISO is wired to MOSI, so that each sample of the exchange is the level MOSI was last driven to, sample k is bit 7 - k of the byte
sent and XFER returns that byte, for every byte (R81). -/
def Obligations.LoopbackReturnsTheByte : Prop :=
  ∀ (out : Byte) (s : State), s.fault = none → s.oe = true →
    ∃ t ev, exec (.xfer out) s = .next t ∧ t.trace = s.trace ++ ev ∧
      (samplesEchoMosi s.mosiQ ev = true → samplesOf ev = wireBits out ∧ t.responses = s.responses ++ [.byte out])

/-! ### Single-frame requests -/

/-- SELECT_REGION: one WRSR frame with the flag byte of the region, WE_ARMED cleared; nothing else changes (R86, R54, R92). -/
def Obligations.SelectRegionSendsItsFrame : Prop :=
  ∀ (info : Bool) (s : State),
    decodeRequest { header := mkHeader 0x4 info 0 0 } = .ok (.selectRegion info) ∧
    (∀ reason, s.checkRefusal = some reason → s.RefusedBy (.selectRegion info) reason) ∧
    (s.Ready → exec (.selectRegion info) s = .next
      { s.afterFrame [s.cfg.opWrsr, if info then s.cfg.infenFlag else 0x00] with
        weArmed := false, responses := s.responses ++ [.done], seq := .idle })

/-- READ_STATUS: one RDSR frame; the response is the byte received during its second byte, any byte, and LAST_RDYN its bit 4; nothing else
changes (R87, R55, R92). -/
def Obligations.ReadStatusReturnsTheStatus : Prop :=
  ∀ s : State,
    decodeRequest { header := mkHeader 0x5 false 0 0 } = .ok .readStatus ∧
    (∀ reason, s.checkRefusal = some reason → s.RefusedBy .readStatus reason) ∧
    (s.Ready → exec .readStatus s = .next
      { s.afterFrame [s.cfg.opRdsr, s.cfg.dummy] with
        lastRdyn := (s.byteIn 1).getLsbD 4, responses := s.responses ++ [.status (s.byteIn 1)], seq := .idle })

/-- WRITE_DISABLE: one WRDIS frame, WE_ARMED cleared; nothing else changes (R88, R92). -/
def Obligations.WriteDisableSendsItsFrame : Prop :=
  ∀ s : State,
    decodeRequest { header := mkHeader 0x6 false 0 0 } = .ok .writeDisable ∧
    (∀ reason, s.checkRefusal = some reason → s.RefusedBy .writeDisable reason) ∧
    (s.Ready → exec .writeDisable s = .next
      { s.afterFrame [s.cfg.opWrdis] with weArmed := false, responses := s.responses ++ [.done], seq := .idle })

/-- READ: one frame of opcode, address high byte, address low byte and `count` dummies; the response is the bytes received during the dummies;
WE_ARMED cleared; nothing else changes (R89, R39, R55, R92). -/
def Obligations.ReadReturnsTheBytes : Prop :=
  ∀ (addr : Addr) (count : Nat) (s : State),
    decodeRequest { header := mkHeader 0x7 false 0 addr, count := count } = .ok (.read addr count) ∧
    (∀ reason, s.checkRefusal = some reason → s.RefusedBy (.read addr count) reason) ∧
    (s.Ready → exec (.read addr count) s = .next
      { s.afterFrame ([s.cfg.opRead, addr.extractLsb' 8 8, addr.extractLsb' 0 8] ++ List.replicate count s.cfg.dummy) with
        weArmed := false, responses := s.responses ++ [.bytes ((List.range count).map fun k => s.byteIn (3 + k))], seq := .idle })

/-- PROGRAM: one frame of opcode, address and data; OBLIGATION_VIOLATED becomes 1 when no confirmed write-enable stands before it or the
last status was busy; WE_ARMED cleared; nothing else changes (R90, R39, R92, R26). -/
def Obligations.ProgramSendsItsFrame : Prop :=
  ∀ (addr : Addr) (data : List Byte) (s : State),
    decodeRequest { header := mkHeader 0x8 false 0 addr, data := data } = .ok (.program addr data) ∧
    (∀ reason, s.checkRefusal = some reason → s.RefusedBy (.program addr data) reason) ∧
    (s.Ready → exec (.program addr data) s = .next
      { s.afterFrame ([s.cfg.opProgram, addr.extractLsb' 8 8, addr.extractLsb' 0 8] ++ data) with
        weArmed := false, obligationViolated := s.obligationViolated || (!s.weArmed || s.lastRdyn)
        responses := s.responses ++ [.done], seq := .idle })

/-- An SPI device that takes MOSI at the rising edges of SCK reads from a single-frame request exactly one frame, the bytes of R58, most
significant bit first (R38, R52, R58, R91); the request is 4 + 56 n events, 2 + 16 n of them delays (R143). -/
def Obligations.DeviceReadsTheCommandFrame : Prop :=
  ∀ (i : Instr) (bytes : List Byte) (s : State), singleFrame s.cfg i = some bytes → s.Ready → s.PinsInv →
    ∃ t ev, exec i s = .next t ∧ t.trace = s.trace ++ ev ∧ framesSeen s.cfg s.sckQ s.mosiQ s.csnQ ev = [bytes] ∧
      ev.length = 4 + 56 * bytes.length ∧ ev.countP Event.isDelay = 2 + 16 * bytes.length

/-! ### Wire commands -/

/-- Each wire command, as the one frame SEQ names, sends its frame of R58 with the ghost updates of R92 and nothing else; OP_RDSR answers the
status byte, OP_READ the data, the others `Done`. That a wire command alone gets a response is the model's choice (log 7). -/
def Obligations.WireCommandsSendTheirFrames : Prop :=
  ∀ (s : State) (bytes : List Byte), s.Ready → s.seq = .command bytes →
    exec .opRdsr s = .next
      { s.afterFrame [s.cfg.opRdsr, s.cfg.dummy] with
        lastRdyn := busy (s.byteIn 1), responses := s.responses ++ [.status (s.byteIn 1)], seq := .idle } ∧
    exec .opWren s = .next { s.afterFrame [s.cfg.opWren] with responses := s.responses ++ [.done], seq := .idle } ∧
    exec .opWrdis s = .next
      { s.afterFrame [s.cfg.opWrdis] with weArmed := false, responses := s.responses ++ [.done], seq := .idle } ∧
    (∀ flag, exec (.opWrsr flag) s = .next
      { s.afterFrame [s.cfg.opWrsr, flag] with weArmed := false, responses := s.responses ++ [.done], seq := .idle }) ∧
    (∀ page, exec (.opErasePage page) s = .next
      { s.afterFrame [s.cfg.opErasePage, page] with
        weArmed := false, obligationViolated := s.obligationViolated || (!s.weArmed || s.lastRdyn)
        responses := s.responses ++ [.done], seq := .idle }) ∧
    exec .opEraseAll s = .next
      { s.afterFrame [s.cfg.opEraseAll] with
        weArmed := false, obligationViolated := s.obligationViolated || (!s.weArmed || s.lastRdyn)
        responses := s.responses ++ [.done], seq := .idle } ∧
    (∀ addr data, exec (.opProgram addr data) s = .next
      { s.afterFrame ([s.cfg.opProgram, addr.extractLsb' 8 8, addr.extractLsb' 0 8] ++ data) with
        weArmed := false, obligationViolated := s.obligationViolated || (!s.weArmed || s.lastRdyn)
        responses := s.responses ++ [.done], seq := .idle }) ∧
    (∀ addr count, exec (.opRead addr count) s = .next
      { s.afterFrame ([s.cfg.opRead, addr.extractLsb' 8 8, addr.extractLsb' 0 8] ++ List.replicate count s.cfg.dummy) with
        weArmed := false, responses := s.responses ++ [.bytes ((List.range count).map fun k => s.byteIn (3 + k))], seq := .idle })

/-- At the position in which a request sends it, a wire command does what the request does from its start: the erases with their wait,
WREN with its confirmation, RDSR as a first poll. R96, R99, R101 and R102 give the requests alone; what a wire command does after its frame
at SEQ is the model's choice, log 7. No step of the block begins at the positions named here: each ends at Idle or in a busy wait
(`State.SeqInv.position`), where at least one poll is counted. -/
def Obligations.WireCommandsGoOnAsTheirRequests : Prop :=
  ∀ s : State, s.Ready →
    (s.seq = .enable → exec .opWren s = exec .writeEnable s) ∧
    (s.seq = .erase .all → exec .opEraseAll s = exec .eraseAll s) ∧
    (∀ page, s.seq = .erase (.page page) → exec (.opErasePage page) s = exec (.erasePage page) s) ∧
    (s.seq = .poll .waitReady → s.polls = 0 → exec .opRdsr s = exec .waitReady s)

/-! ### Busy wait -/

/-- WAIT_READY's first poll: one RDSR frame, POLLS 1; bit 4 of its status decides; nothing else changes (R96, R97, R98). That a busy poll ends
the execution with SEQ at the wait's position is the model's choice of a step, log 6. -/
def Obligations.WaitReadyPollsOnce : Prop :=
  ∀ s : State,
    decodeRequest { header := mkHeader 0x9 false 0 0 } = .ok .waitReady ∧
    (∀ reason, s.checkRefusal = some reason → s.RefusedBy .waitReady reason) ∧
    (s.Ready → exec .waitReady s = .next
      (State.afterLastPoll
        { s.afterFrame [s.cfg.opRdsr, s.cfg.dummy] with
          polls := 1, lastRdyn := busy (s.byteIn 1), seq := .poll .waitReady } (s.byteIn 1)))

/-- A step in a busy wait is one more poll: one RDSR frame, POLLS one more, and bit 4 of its status decides (R96, R97, R98). In a chunk's wait a busy status
leaves the block in that wait, or faults when it exhausts the bound; how a ready status goes on there is `ParkedChunkGoesOn`. That one step is
one poll is the model's choice, log 6. -/
def Obligations.BusyWaitStepPollsOnceMore : Prop :=
  ∀ s : State, s.cfg.wf = true → s.Ready →
    (∀ w, s.seq = .poll w → step s = .next
      (State.afterLastPoll
        { s.afterFrame [s.cfg.opRdsr, s.cfg.dummy] with polls := s.polls + 1, lastRdyn := busy (s.byteIn 1) } (s.byteIn 1))) ∧
    ∀ k addr data, s.seq = .chunk k .wait addr data → busy (s.byteIn 1) = true → step s = .next
      (if s.cfg.pollLimit.any fun n => decide (n ≤ s.polls + 1) then
        { s.afterFrame [s.cfg.opRdsr, s.cfg.dummy] with
          polls := s.polls + 1, lastRdyn := true, fault := some .deviceUnresponsive
          responses := s.responses ++ [.faulted .deviceUnresponsive], seq := .idle }
      else { s.afterFrame [s.cfg.opRdsr, s.cfg.dummy] with polls := s.polls + 1, lastRdyn := true })

/-- A device that reports busy m times and then ready, with no bound below m + 1: WAIT_READY ends with `Done` after m + 1 polls (R96). That these are
m + 1 steps is the model's choice, log 6. -/
def Obligations.WaitEndsAtTheFirstReadyPoll : Prop :=
  ∀ (s : State) (m : Nat) (r : Request) (rest : List HostMove), s.cfg.wf = true → s.Ready → s.seq = .idle →
    s.hostQueue = .present r :: rest → decodeRequest r = .ok .waitReady →
    (∀ n, s.cfg.pollLimit = some n → m < n) → (∀ j, j < m → busy (s.byteIn (2 * j + 1)) = true) →
    busy (s.byteIn (2 * m + 1)) = false →
    ∃ t, Host.Core.run Sys2Proof.core (m + 1) s = .next t ∧ t.responses = s.responses ++ [.done] ∧ t.seq = .idle ∧
      t.polls = m + 1 ∧ t.fault = none ∧ t.lastRdyn = false ∧ t.hostQueue = rest ∧ t.oe = true ∧
      t.trace.length = s.trace.length + 116 * (m + 1)

/-- The bounded variant: with `POLL_LIMIT = some n` a wait whose first n statuses are busy ends after the n-th frame with FAULT
`DeviceUnresponsive`, its response, POLLS n, and the bus still driven (R98, R113, R121, R124). First for WAIT_READY from its request; then for every wait,
those of the erases and of a chunk included, from a point at which m polls are left, with the frames sent: status reads and no
other. That one poll is one step is the model's choice, log 6. -/
def Obligations.BoundedWaitFaultsAfterItsLimit : Prop :=
  (∀ (s : State) (n : Nat) (r : Request) (rest : List HostMove), s.cfg.wf = true → s.Ready → s.seq = .idle →
    s.hostQueue = .present r :: rest → decodeRequest r = .ok .waitReady → s.cfg.pollLimit = some n →
    (∀ j, j < n → busy (s.byteIn (2 * j + 1)) = true) →
    ∃ t, Host.Core.run Sys2Proof.core n s = .next t ∧ t.fault = some .deviceUnresponsive ∧
      t.responses = s.responses ++ [.faulted .deviceUnresponsive] ∧ t.seq = .idle ∧ t.polls = n ∧ t.oe = true ∧
      t.csnQ = (!s.cfg.csActiveLevel) ∧ t.sckQ = false ∧ t.trace.length = s.trace.length + 116 * n) ∧
  ∀ (s : State) (m n : Nat), s.cfg.wf = true → s.Ready → s.PinsInv → s.seq.isWait = true → s.cfg.pollLimit = some n →
    1 ≤ m → s.polls + m = n → (∀ j, j < m → busy (s.byteIn (2 * j + 1)) = true) →
    ∃ t ev, Host.Core.run Sys2Proof.core m s = .next t ∧ t.fault = some .deviceUnresponsive ∧
      t.responses = s.responses ++ [.faulted .deviceUnresponsive] ∧ t.seq = .idle ∧ t.polls = n ∧ t.oe = true ∧
      t.csnQ = (!s.cfg.csActiveLevel) ∧ t.sckQ = false ∧ t.trace = s.trace ++ ev ∧
      framesSeen s.cfg s.sckQ s.mosiQ s.csnQ ev = List.replicate m [s.cfg.opRdsr, s.cfg.dummy]

/-- The hang: with `POLL_LIMIT = none` and a device that stays busy, any number of steps leaves the block in the same busy wait, with no
response and one RDSR frame more per step (R127). That one frame is one step is the model's choice, log 6. -/
def Obligations.UnboundedWaitNeverResponds : Prop :=
  ∀ (s : State) (n : Nat), s.cfg.wf = true → s.Ready → s.PinsInv → s.seq.isWait = true → s.cfg.pollLimit = none →
    (∀ j, j < n → busy (s.byteIn (2 * j + 1)) = true) →
    ∃ t ev, Host.Core.run Sys2Proof.core n s = .next t ∧ t.seq = s.seq ∧ t.responses = s.responses ∧ t.fault = none ∧
      t.polls = s.polls + n ∧ t.trace = s.trace ++ ev ∧
      framesSeen s.cfg s.sckQ s.mosiQ s.csnQ ev = List.replicate n [s.cfg.opRdsr, s.cfg.dummy]

/-! ### Write enable and erase -/

/-- WRITE_ENABLE: a WREN frame, then one RDSR frame. Bit 5 of its status alone decides: `Done` and WE_ARMED 1, or FAULT
`HandshakeFailure` with every line left as the frame left it (R99, R100, R113, R120, R124). -/
def Obligations.WriteEnableConfirmsOrFaults : Prop :=
  ∀ s : State,
    decodeRequest { header := mkHeader 0xA false 0 0 } = .ok .writeEnable ∧
    (∀ reason, s.checkRefusal = some reason → s.RefusedBy .writeEnable reason) ∧
    (s.Ready → exec .writeEnable s = .next
      (if (s.byteIn 2).getLsbD 5 then
        { s.afterFrames [[s.cfg.opWren], [s.cfg.opRdsr, s.cfg.dummy]] with
          lastRdyn := (s.byteIn 2).getLsbD 4, weArmed := true, responses := s.responses ++ [.done], seq := .idle }
      else
        { s.afterFrames [[s.cfg.opWren], [s.cfg.opRdsr, s.cfg.dummy]] with
          lastRdyn := (s.byteIn 2).getLsbD 4, fault := some .handshakeFailure
          responses := s.responses ++ [.faulted .handshakeFailure], seq := .idle }))

/-- ERASE_ALL: its frame with the obligation check, then the busy wait's first poll; nothing else changes (R101, R92, R96). That a busy poll ends the
execution with SEQ at the wait's position is the model's choice of a step, log 6. -/
def Obligations.EraseAllSendsAndWaits : Prop :=
  ∀ s : State,
    decodeRequest { header := mkHeader 0xB false 0 0 } = .ok .eraseAll ∧
    (∀ reason, s.checkRefusal = some reason → s.RefusedBy .eraseAll reason) ∧
    (s.Ready → exec .eraseAll s = .next
      (State.afterLastPoll
        { s.afterFrames [[s.cfg.opEraseAll], [s.cfg.opRdsr, s.cfg.dummy]] with
          polls := 1, weArmed := false, obligationViolated := s.obligationViolated || (!s.weArmed || s.lastRdyn)
          lastRdyn := busy (s.byteIn 2), seq := .poll (.erase .all) } (s.byteIn 2)))

/-- ERASE_PAGE: its frame, the page byte unchanged, then as ERASE_ALL (R102, R92, R96), with the same choice of a step, log 6. -/
def Obligations.ErasePageSendsAndWaits : Prop :=
  ∀ (page : Byte) (s : State),
    decodeRequest { header := mkHeader 0xC false page 0 } = .ok (.erasePage page) ∧
    (∀ reason, s.checkRefusal = some reason → s.RefusedBy (.erasePage page) reason) ∧
    (s.Ready → exec (.erasePage page) s = .next
      (State.afterLastPoll
        { s.afterFrames [[s.cfg.opErasePage, page], [s.cfg.opRdsr, s.cfg.dummy]] with
          polls := 1, weArmed := false, obligationViolated := s.obligationViolated || (!s.weArmed || s.lastRdyn)
          lastRdyn := busy (s.byteIn 3), seq := .poll (.erase (.page page)) } (s.byteIn 3)))

/-! ### Chunked programming -/

/-- The chunks partition the data: N is `ceil(L / CHUNK_SIZE)`, their concatenation is the data, every chunk but the last is full, the last is
not empty, and for a request in range the address of chunk k is exactly `addr + k * CHUNK_SIZE` (R105, R107, R108). -/
def Obligations.ChunksPartitionTheData : Prop :=
  ∀ (cfg : Config) (addr : Addr) (data : List Byte), cfg.wf = true →
    (data.length ≤ chunkCount cfg data.length * cfg.chunkSize ∧
      ∀ m, data.length ≤ m * cfg.chunkSize → chunkCount cfg data.length ≤ m) ∧
    (List.range (chunkCount cfg data.length)).flatMap (chunkData cfg data) = data ∧
    ∀ k, k < chunkCount cfg data.length →
      1 ≤ (chunkData cfg data k).length ∧ (chunkData cfg data k).length ≤ cfg.chunkSize ∧
      (k + 1 < chunkCount cfg data.length → (chunkData cfg data k).length = cfg.chunkSize) ∧
      (addr.toNat + data.length ≤ 0x10000 → (chunkAddr cfg addr k).toNat = addr.toNat + k * cfg.chunkSize)

/-- PROGRAM_CHUNKED past 0xFFFF is refused with `ArgumentRange` after the other checks, and with no data it ends `Done` with no event
(R104, R115, R122). -/
def Obligations.ChunkedProgramEdges : Prop :=
  ∀ (addr : Addr) (data : List Byte) (s : State),
    decodeRequest { header := mkHeader 0xD false 0 addr, data := data } = .ok (.programChunked addr data) ∧
    (∀ reason, s.checkRefusal = some reason → s.RefusedBy (.programChunked addr data) reason) ∧
    (s.Ready → addr.toNat + data.length > 0x10000 → s.RefusedBy (.programChunked addr data) .argumentRange) ∧
    (s.Ready → s.cfg.wf = true → exec (.programChunked addr []) s = .next
      { s with responses := s.responses ++ [.done], seq := .idle })

/-- PROGRAM_CHUNKED on a device that is ready at each first poll and confirms each write-enable: per chunk a status read, WREN, a confirming status
read and the program frame at the chunk's address, no wait after the last, `Done`. OBLIGATION_VIOLATED is set just when a confirming
status had bit 4 set (R104, R105, R106, R107, R109, R111). -/
def Obligations.ChunkedProgramOnReadyDevice : Prop :=
  ∀ (addr : Addr) (data : List Byte) (s : State), s.cfg.wf = true → s.Ready → addr.toNat + data.length ≤ 0x10000 → data ≠ [] →
    (∀ k, k < chunkCount s.cfg data.length →
      busy (s.byteIn (k * (s.cfg.chunkSize + 8) + 1)) = false ∧ wen (s.byteIn (k * (s.cfg.chunkSize + 8) + 4)) = true) →
    exec (.programChunked addr data) s = .next
      { s.afterFrames ((List.range (chunkCount s.cfg data.length)).flatMap (chunkFrames s.cfg addr data)) with
        polls := 1, weArmed := false
        lastRdyn := busy (s.byteIn ((chunkCount s.cfg data.length - 1) * (s.cfg.chunkSize + 8) + 4))
        obligationViolated := s.obligationViolated ||
          (List.range (chunkCount s.cfg data.length)).any fun k => busy (s.byteIn (k * (s.cfg.chunkSize + 8) + 4))
        responses := s.responses ++ [.done], seq := .idle }

/-- A write-enable that chunk j's status does not confirm ends PROGRAM_CHUNKED at once: chunks 0 to j-1 are sent in full, chunk j's program frame is
not sent, and the response is `Faulted(HandshakeFailure)` (R110, R112, R120, R126). -/
def Obligations.ChunkedProgramStopsAtUnconfirmedChunk : Prop :=
  ∀ (addr : Addr) (data : List Byte) (s : State) (j : Nat), s.cfg.wf = true → s.Ready → addr.toNat + data.length ≤ 0x10000 →
    j < chunkCount s.cfg data.length →
    (∀ k, k ≤ j → busy (s.byteIn (k * (s.cfg.chunkSize + 8) + 1)) = false) →
    (∀ k, k < j → wen (s.byteIn (k * (s.cfg.chunkSize + 8) + 4)) = true) →
    wen (s.byteIn (j * (s.cfg.chunkSize + 8) + 4)) = false →
    exec (.programChunked addr data) s = .next
      { s.afterFrames ((List.range j).flatMap (chunkFrames s.cfg addr data) ++
          [[s.cfg.opRdsr, s.cfg.dummy], [s.cfg.opWren], [s.cfg.opRdsr, s.cfg.dummy]]) with
        polls := 1, weArmed := if j = 0 then s.weArmed else false
        lastRdyn := busy (s.byteIn (j * (s.cfg.chunkSize + 8) + 4))
        obligationViolated := s.obligationViolated ||
          (List.range j).any fun k => busy (s.byteIn (k * (s.cfg.chunkSize + 8) + 4))
        fault := some .handshakeFailure, responses := s.responses ++ [.faulted .handshakeFailure], seq := .idle }

/-- A busy first poll of chunk j: chunks 0 to j-1 and one status read are sent. With `POLL_LIMIT = some 1` the bound is exhausted and PROGRAM_CHUNKED ends with
`Faulted(DeviceUnresponsive)`, chunk j not sent (R98, R110, R113); otherwise it is in chunk j's wait, with no response yet (R104, R96; that a step ends
there is the model's choice, log 6). -/
def Obligations.ChunkedProgramWaitsAtBusyChunk : Prop :=
  ∀ (addr : Addr) (data : List Byte) (s : State) (j : Nat), s.cfg.wf = true → s.Ready → addr.toNat + data.length ≤ 0x10000 →
    j < chunkCount s.cfg data.length →
    (∀ k, k < j →
      busy (s.byteIn (k * (s.cfg.chunkSize + 8) + 1)) = false ∧ wen (s.byteIn (k * (s.cfg.chunkSize + 8) + 4)) = true) →
    busy (s.byteIn (j * (s.cfg.chunkSize + 8) + 1)) = true →
    exec (.programChunked addr data) s = .next
      { s.afterFrames ((List.range j).flatMap (chunkFrames s.cfg addr data) ++ [[s.cfg.opRdsr, s.cfg.dummy]]) with
        polls := 1, weArmed := if j = 0 then s.weArmed else false, lastRdyn := true
        obligationViolated := s.obligationViolated ||
          (List.range j).any fun k => busy (s.byteIn (k * (s.cfg.chunkSize + 8) + 4))
        fault := if s.cfg.pollLimit = some 1 then some .deviceUnresponsive else none
        responses := if s.cfg.pollLimit = some 1 then s.responses ++ [.faulted .deviceUnresponsive] else s.responses
        seq := if s.cfg.pollLimit = some 1 then .idle else .chunk j .wait addr data }

/-- From chunk j's wait one step goes on as the loop of R104 does, as far as the device lets it. On a device ready from now on it sends chunks j to the last and
ends with `Done`. With m chunks ready and then an unconfirmed write-enable it sends those m chunks and ends with `Faulted(HandshakeFailure)`, chunk
j + m not sent (R110, R120). With m chunks ready, at least one, and then a busy poll it is in the wait of chunk j + m, or at the fault of an exhausted
bound (R98, R110); a busy poll with m = 0 is `BusyWaitStepPollsOnceMore`. That the block can be found in a chunk's wait, and that one step goes so
far, is the model's choice, log 6. -/
def Obligations.ParkedChunkGoesOn : Prop :=
  ∀ (addr : Addr) (data : List Byte) (s : State) (j m : Nat), s.cfg.wf = true → s.Ready → s.seq = .chunk j .wait addr data →
    j + m ≤ chunkCount s.cfg data.length →
    (∀ k, k < m →
      busy (s.byteIn (k * (s.cfg.chunkSize + 8) + 1)) = false ∧ wen (s.byteIn (k * (s.cfg.chunkSize + 8) + 4)) = true) →
    (1 ≤ m → j + m = chunkCount s.cfg data.length → step s = .next
      { s.afterFrames ((List.range' j m).flatMap (chunkFrames s.cfg addr data)) with
        polls := if m = 1 then s.polls + 1 else 1, weArmed := false
        lastRdyn := busy (s.byteIn ((m - 1) * (s.cfg.chunkSize + 8) + 4))
        obligationViolated := s.obligationViolated ||
          (List.range m).any fun k => busy (s.byteIn (k * (s.cfg.chunkSize + 8) + 4))
        responses := s.responses ++ [.done], seq := .idle }) ∧
    (j + m < chunkCount s.cfg data.length → busy (s.byteIn (m * (s.cfg.chunkSize + 8) + 1)) = false →
      wen (s.byteIn (m * (s.cfg.chunkSize + 8) + 4)) = false → step s = .next
      { s.afterFrames ((List.range' j m).flatMap (chunkFrames s.cfg addr data) ++
          [[s.cfg.opRdsr, s.cfg.dummy], [s.cfg.opWren], [s.cfg.opRdsr, s.cfg.dummy]]) with
        polls := if m = 0 then s.polls + 1 else 1, weArmed := if m = 0 then s.weArmed else false
        lastRdyn := busy (s.byteIn (m * (s.cfg.chunkSize + 8) + 4))
        obligationViolated := s.obligationViolated ||
          (List.range m).any fun k => busy (s.byteIn (k * (s.cfg.chunkSize + 8) + 4))
        fault := some .handshakeFailure, responses := s.responses ++ [.faulted .handshakeFailure], seq := .idle }) ∧
    (1 ≤ m → j + m < chunkCount s.cfg data.length → busy (s.byteIn (m * (s.cfg.chunkSize + 8) + 1)) = true → step s = .next
      { s.afterFrames ((List.range' j m).flatMap (chunkFrames s.cfg addr data) ++ [[s.cfg.opRdsr, s.cfg.dummy]]) with
        polls := 1, weArmed := false, lastRdyn := true
        obligationViolated := s.obligationViolated ||
          (List.range m).any fun k => busy (s.byteIn (k * (s.cfg.chunkSize + 8) + 4))
        fault := if s.cfg.pollLimit = some 1 then some .deviceUnresponsive else none
        responses := if s.cfg.pollLimit = some 1 then s.responses ++ [.faulted .deviceUnresponsive] else s.responses
        seq := if s.cfg.pollLimit = some 1 then .idle else .chunk (j + m) .wait addr data })

/-! ### Invariants and whole-machine rules -/

/-- The reset state meets the three invariants. -/
def Obligations.ResetMeetsTheInvariants : Prop :=
  State.reset.PinsInv ∧ State.reset.SeqInv ∧ State.reset.TraceInv

/-- Every step keeps: CS_ASSERTED agrees with the chip-select latch and SCK is low while the bus is driven, no scope is open on a released
bus, BITCNT is in 0..8 (R20, R21, R77). -/
def Obligations.StepKeepsPinsInv : Prop :=
  ∀ s t : State, s.PinsInv → step s = .next t → t.PinsInv

/-- Every step keeps: it ends at Idle or in a busy wait; a busy wait has the bus driven, no open scope and no fault; a fault leaves the bus
driven and chip-select de-asserted; `DeviceUnresponsive` only in the bounded variant (R114, R84, R121, R124). The first of these, where a step ends, is
the model's choice, log 6 and log 8. -/
def Obligations.StepKeepsSeqInv : Prop :=
  ∀ s t : State, s.SeqInv → step s = .next t → t.SeqInv

/-- Every step keeps: each latch of a driven bus is the level the trace last gave its line, and in the whole trace MOSI is driven only while
SCK is low (R18, R27, R78). -/
def Obligations.StepKeepsTraceInv : Prop :=
  ∀ s t : State, s.TraceInv → step s = .next t → t.TraceInv

/-- No frame request sends a first byte other than the eight opcodes: each frame a device reads from its events begins with one of them (R62). -/
def Obligations.OnlyTheEightOpcodesAreSent : Prop :=
  ∀ (i : Instr) (s t : State), s.PinsInv → exec i s = .next t →
    (∀ en, i ≠ .setOe en) → (∀ a, i ≠ .setCs a) → (∀ out, i ≠ .xfer out) →
    ∃ ev, t.trace = s.trace ++ ev ∧
      ∀ f ∈ framesSeen s.cfg s.sckQ s.mosiQ s.csnQ ev, ∃ op, f.head? = some op ∧ op ∈ s.cfg.opcodes

/-- No step changes the configuration, pin map included. Within a session that is R134's "Immutable for a session"; that a reset step, which starts a
new session (R133), keeps it too is the model's choice, log 16, and that the configuration is a field of State is log 1. -/
def Obligations.ConfigurationIsImmutable : Prop :=
  ∀ s t : State, step s = .next t → t.cfg = s.cfg

/-- OE is written only by SET_OE: no other instruction changes it (R15). -/
def Obligations.OnlySetOeWritesOe : Prop :=
  ∀ (i : Instr) (s t : State), exec i s = .next t → (∀ en, i ≠ .setOe en) → t.oe = s.oe

/-- A step that is no reset only appends to the trace, and the samples it appends are the levels MISO held, one draw each, in order
(R19, R27, R47). -/
def Obligations.StepAppendsToTheTrace : Prop :=
  ∀ s t : State, step s = .next t → ¬ s.ResetNext →
    ∃ ev n, t.trace = s.trace ++ ev ∧ samplesOf ev = (List.range n).map s.level ∧ t.draws = s.draws + n ∧ t.misoIn = s.misoIn.drop n

/-- A step that takes up a request or goes on with one either ends it with exactly one response or is in a busy wait with none (R28, R64). That a step
without a response ends in a busy wait is the model's choice, log 6. -/
def Obligations.OneResponsePerRequest : Prop :=
  ∀ s t : State, step s = .next t → ¬ s.ResetNext → ¬ (s.seq = .idle ∧ s.hostQueue = []) →
    (t.seq = .idle ∧ ∃ r, t.responses = s.responses ++ [r]) ∨ (t.seq.isWait = true ∧ t.responses = s.responses)

/-- A refusal is made before any pin event: a step whose response is `Refused` leaves every field but the response list, SEQ and the host's queue
as it was (R115, R122). -/
def Obligations.RefusalsChangeNothing : Prop :=
  ∀ (s t : State) (reason : RefusalReason), step s = .next t → t.responses = s.responses ++ [.refused reason] →
    t = { s with responses := t.responses, seq := .idle, hostQueue := t.hostQueue }

/-- Fault entry writes FAULT, the response and SEQ, and nothing else; at every step that sets FAULT the bus is still driven, chip-select is
de-asserted, SCK is 0, and the response is `Faulted` of the kind (R124). -/
def Obligations.FaultEntryLeavesTheBusDriven : Prop :=
  (∀ (k : FaultKind) (s : State), raiseFault k s =
    { s with fault := some k, responses := s.responses ++ [.faulted k], seq := .idle }) ∧
  ∀ (s t : State) (k : FaultKind), step s = .next t → s.fault = none → t.fault = some k →
    t.oe = true ∧ s.oe = true ∧ t.csAsserted = false ∧ t.csnQ = (!t.cfg.csActiveLevel) ∧ t.sckQ = false ∧ t.seq = .idle ∧
      t.responses = s.responses ++ [.faulted k]
end

