-- ==== Sys2Proof/Laws/Codec.lean ====
section
/-! SUPPORT. The header fields of an encoded request, and the small lemmas of the frame codec. -/

namespace Sys2Proof

theorem mkHeader_getLsbD (c : BitVec 4) (f : Bool) (b : Byte) (a : Addr) (i : Nat) :
    (mkHeader c f b a).getLsbD i =
      if i < 4 then c.getLsbD i else if i < 5 then f else if i < 8 then false else if i < 16 then b.getLsbD (i - 8)
      else a.getLsbD (i - 16) := by
  simp only [mkHeader, BitVec.getLsbD_append, BitVec.getLsbD_ofBool, BitVec.ofNat_eq_ofNat, BitVec.getLsbD_zero]
  by_cases h4 : i < 4
  · simp [h4]
  by_cases h5 : i < 5
  · have : i = 4 := by omega
    subst this
    simp
  by_cases h8 : i < 8
  · have h1 : ¬ i - 4 < 1 := by omega
    have h2 : i - 4 - 1 < 3 := by omega
    simp [h4, h5, h8, h1, h2]
  by_cases h16 : i < 16
  · have h1 : ¬ i - 4 < 1 := by omega
    have h2 : ¬ i - 4 - 1 < 3 := by omega
    have h3 : i - 4 - 1 - 3 < 8 := by omega
    have h : i - 4 - 1 - 3 = i - 8 := by omega
    have h3' : i - 8 < 8 := by omega
    simp [h4, h5, h8, h16, h1, h2, h, h3']
  · have h1 : ¬ i - 4 < 1 := by omega
    have h2 : ¬ i - 4 - 1 < 3 := by omega
    have h3 : ¬ i - 4 - 1 - 3 < 8 := by omega
    have h : i - 4 - 1 - 3 - 8 = i - 16 := by omega
    simp [h4, h5, h8, h16, h1, h2, h3, h]

@[simp] theorem hdrCode_mkHeader (c : BitVec 4) (f : Bool) (b : Byte) (a : Addr) : hdrCode (mkHeader c f b a) = c.toNat := by
  unfold hdrCode
  congr 1
  apply BitVec.eq_of_getLsbD_eq
  intro i hi
  simp [mkHeader_getLsbD, hi]

@[simp] theorem hdrFlag_mkHeader (c : BitVec 4) (f : Bool) (b : Byte) (a : Addr) : hdrFlag (mkHeader c f b a) = f := by
  simp only [hdrFlag, mkHeader_getLsbD]
  simp

@[simp] theorem hdrReserved_mkHeader (c : BitVec 4) (f : Bool) (b : Byte) (a : Addr) : hdrReserved (mkHeader c f b a) = 0 := by
  apply BitVec.eq_of_getLsbD_eq
  intro i hi
  have h4 : ¬ 5 + i < 4 := by omega
  have h5 : ¬ 5 + i < 5 := by omega
  have h8 : 5 + i < 8 := by omega
  simp [hdrReserved, mkHeader_getLsbD, h4, h5, h8]

@[simp] theorem hdrByte_mkHeader (c : BitVec 4) (f : Bool) (b : Byte) (a : Addr) : hdrByte (mkHeader c f b a) = b := by
  apply BitVec.eq_of_getLsbD_eq
  intro i hi
  have h4 : ¬ 8 + i < 4 := by omega
  have h5 : ¬ 8 + i < 5 := by omega
  have h8 : ¬ 8 + i < 8 := by omega
  have h16 : 8 + i < 16 := by omega
  simp [hdrByte, mkHeader_getLsbD, h4, h5, h8, h16, hi]

@[simp] theorem hdrAddr_mkHeader (c : BitVec 4) (f : Bool) (b : Byte) (a : Addr) : hdrAddr (mkHeader c f b a) = a := by
  apply BitVec.eq_of_getLsbD_eq
  intro i hi
  have h4 : ¬ 16 + i < 4 := by omega
  have h5 : ¬ 16 + i < 5 := by omega
  have h8 : ¬ 16 + i < 8 := by omega
  have h16 : ¬ 16 + i < 16 := by omega
  simp [hdrAddr, mkHeader_getLsbD, h4, h5, h8, h16, hi]

/-- The two address bytes make the address again (R39). -/
theorem addrBytes_join (a : Addr) : (a.extractLsb' 8 8 ++ a.extractLsb' 0 8 : BitVec 16) = a := by
  apply BitVec.eq_of_getLsbD_eq
  intro i hi
  have hi' : i < 16 := hi
  by_cases h : i < 8
  · rw [BitVec.getLsbD_append]
    simp [h]
  · have h2 : i - 8 < 8 := by omega
    have h3 : 8 + (i - 8) = i := by omega
    rw [BitVec.getLsbD_append]
    simp [h, h2, h3]

/-- Under pairwise distinct opcodes each opcode byte names its own command (R56). -/
theorem commandOf_opcode {cfg : Config} (h : cfg.opcodes.Nodup) (c : Command) : commandOf cfg (cfg.opcode c) = some c := by
  simp only [Config.opcodes, List.nodup_cons, List.mem_cons, List.not_mem_nil, or_false, not_or, ← ne_eq,
    ← beq_eq_false_iff_ne] at h
  cases c <;> simp [commandOf, Config.opcode, h]

/-! ### What a well-formed configuration gives -/

theorem Config.wf_nodup {cfg : Config} (h : cfg.wf = true) : cfg.opcodes.Nodup := by
  simp only [Config.wf, Bool.and_eq_true, decide_eq_true_eq] at h
  exact h.1.1.1.1

theorem Config.wf_chunkSize {cfg : Config} (h : cfg.wf = true) : 1 ≤ cfg.chunkSize := by
  simp only [Config.wf, Bool.and_eq_true, decide_eq_true_eq] at h
  exact h.1.1.1.2

theorem Config.wf_pollLimit {cfg : Config} (h : cfg.wf = true) {n : Nat} (hn : cfg.pollLimit = some n) : 1 ≤ n := by
  simp only [Config.wf, hn, Bool.and_eq_true, decide_eq_true_eq] at h
  exact h.1.1.2

end Sys2Proof
end

