-- ==== Sys2Proof/Laws/State.lean ====
section
/-! SUPPORT. What each state update does to each field: one lemma per field per update. -/

namespace Sys2Proof.Machine

/-! ### emit -/

@[simp] theorem emit_cfg (e : Event) (s : State) : (emit e s).cfg = s.cfg := rfl
@[simp] theorem emit_oe (e : Event) (s : State) : (emit e s).oe = s.oe := rfl
@[simp] theorem emit_sckQ (e : Event) (s : State) : (emit e s).sckQ = s.sckQ := rfl
@[simp] theorem emit_mosiQ (e : Event) (s : State) : (emit e s).mosiQ = s.mosiQ := rfl
@[simp] theorem emit_csnQ (e : Event) (s : State) : (emit e s).csnQ = s.csnQ := rfl
@[simp] theorem emit_csAsserted (e : Event) (s : State) : (emit e s).csAsserted = s.csAsserted := rfl
@[simp] theorem emit_shiftOut (e : Event) (s : State) : (emit e s).shiftOut = s.shiftOut := rfl
@[simp] theorem emit_shiftIn (e : Event) (s : State) : (emit e s).shiftIn = s.shiftIn := rfl
@[simp] theorem emit_bitCnt (e : Event) (s : State) : (emit e s).bitCnt = s.bitCnt := rfl
@[simp] theorem emit_fault (e : Event) (s : State) : (emit e s).fault = s.fault := rfl
@[simp] theorem emit_polls (e : Event) (s : State) : (emit e s).polls = s.polls := rfl
@[simp] theorem emit_seq (e : Event) (s : State) : (emit e s).seq = s.seq := rfl
@[simp] theorem emit_weArmed (e : Event) (s : State) : (emit e s).weArmed = s.weArmed := rfl
@[simp] theorem emit_lastRdyn (e : Event) (s : State) : (emit e s).lastRdyn = s.lastRdyn := rfl
@[simp] theorem emit_obligationViolated (e : Event) (s : State) : (emit e s).obligationViolated = s.obligationViolated := rfl
@[simp] theorem emit_trace (e : Event) (s : State) : (emit e s).trace = s.trace ++ [e] := rfl
@[simp] theorem emit_responses (e : Event) (s : State) : (emit e s).responses = s.responses := rfl
@[simp] theorem emit_hostQueue (e : Event) (s : State) : (emit e s).hostQueue = s.hostQueue := rfl
@[simp] theorem emit_misoIn (e : Event) (s : State) : (emit e s).misoIn = s.misoIn := rfl
@[simp] theorem emit_draws (e : Event) (s : State) : (emit e s).draws = s.draws := rfl

/-! ### setLatch_sck -/

@[simp] theorem setLatch_sck_cfg (l : Level) (s : State) : (setLatch .sck l s).cfg = s.cfg := rfl
@[simp] theorem setLatch_sck_oe (l : Level) (s : State) : (setLatch .sck l s).oe = s.oe := rfl
@[simp] theorem setLatch_sck_sckQ (l : Level) (s : State) : (setLatch .sck l s).sckQ = l := rfl
@[simp] theorem setLatch_sck_mosiQ (l : Level) (s : State) : (setLatch .sck l s).mosiQ = s.mosiQ := rfl
@[simp] theorem setLatch_sck_csnQ (l : Level) (s : State) : (setLatch .sck l s).csnQ = s.csnQ := rfl
@[simp] theorem setLatch_sck_csAsserted (l : Level) (s : State) : (setLatch .sck l s).csAsserted = s.csAsserted := rfl
@[simp] theorem setLatch_sck_shiftOut (l : Level) (s : State) : (setLatch .sck l s).shiftOut = s.shiftOut := rfl
@[simp] theorem setLatch_sck_shiftIn (l : Level) (s : State) : (setLatch .sck l s).shiftIn = s.shiftIn := rfl
@[simp] theorem setLatch_sck_bitCnt (l : Level) (s : State) : (setLatch .sck l s).bitCnt = s.bitCnt := rfl
@[simp] theorem setLatch_sck_fault (l : Level) (s : State) : (setLatch .sck l s).fault = s.fault := rfl
@[simp] theorem setLatch_sck_polls (l : Level) (s : State) : (setLatch .sck l s).polls = s.polls := rfl
@[simp] theorem setLatch_sck_seq (l : Level) (s : State) : (setLatch .sck l s).seq = s.seq := rfl
@[simp] theorem setLatch_sck_weArmed (l : Level) (s : State) : (setLatch .sck l s).weArmed = s.weArmed := rfl
@[simp] theorem setLatch_sck_lastRdyn (l : Level) (s : State) : (setLatch .sck l s).lastRdyn = s.lastRdyn := rfl
@[simp] theorem setLatch_sck_obligationViolated (l : Level) (s : State) : (setLatch .sck l s).obligationViolated = s.obligationViolated := rfl
@[simp] theorem setLatch_sck_trace (l : Level) (s : State) : (setLatch .sck l s).trace = s.trace := rfl
@[simp] theorem setLatch_sck_responses (l : Level) (s : State) : (setLatch .sck l s).responses = s.responses := rfl
@[simp] theorem setLatch_sck_hostQueue (l : Level) (s : State) : (setLatch .sck l s).hostQueue = s.hostQueue := rfl
@[simp] theorem setLatch_sck_misoIn (l : Level) (s : State) : (setLatch .sck l s).misoIn = s.misoIn := rfl
@[simp] theorem setLatch_sck_draws (l : Level) (s : State) : (setLatch .sck l s).draws = s.draws := rfl

/-! ### setLatch_mosi -/

@[simp] theorem setLatch_mosi_cfg (l : Level) (s : State) : (setLatch .mosi l s).cfg = s.cfg := rfl
@[simp] theorem setLatch_mosi_oe (l : Level) (s : State) : (setLatch .mosi l s).oe = s.oe := rfl
@[simp] theorem setLatch_mosi_sckQ (l : Level) (s : State) : (setLatch .mosi l s).sckQ = s.sckQ := rfl
@[simp] theorem setLatch_mosi_mosiQ (l : Level) (s : State) : (setLatch .mosi l s).mosiQ = l := rfl
@[simp] theorem setLatch_mosi_csnQ (l : Level) (s : State) : (setLatch .mosi l s).csnQ = s.csnQ := rfl
@[simp] theorem setLatch_mosi_csAsserted (l : Level) (s : State) : (setLatch .mosi l s).csAsserted = s.csAsserted := rfl
@[simp] theorem setLatch_mosi_shiftOut (l : Level) (s : State) : (setLatch .mosi l s).shiftOut = s.shiftOut := rfl
@[simp] theorem setLatch_mosi_shiftIn (l : Level) (s : State) : (setLatch .mosi l s).shiftIn = s.shiftIn := rfl
@[simp] theorem setLatch_mosi_bitCnt (l : Level) (s : State) : (setLatch .mosi l s).bitCnt = s.bitCnt := rfl
@[simp] theorem setLatch_mosi_fault (l : Level) (s : State) : (setLatch .mosi l s).fault = s.fault := rfl
@[simp] theorem setLatch_mosi_polls (l : Level) (s : State) : (setLatch .mosi l s).polls = s.polls := rfl
@[simp] theorem setLatch_mosi_seq (l : Level) (s : State) : (setLatch .mosi l s).seq = s.seq := rfl
@[simp] theorem setLatch_mosi_weArmed (l : Level) (s : State) : (setLatch .mosi l s).weArmed = s.weArmed := rfl
@[simp] theorem setLatch_mosi_lastRdyn (l : Level) (s : State) : (setLatch .mosi l s).lastRdyn = s.lastRdyn := rfl
@[simp] theorem setLatch_mosi_obligationViolated (l : Level) (s : State) : (setLatch .mosi l s).obligationViolated = s.obligationViolated := rfl
@[simp] theorem setLatch_mosi_trace (l : Level) (s : State) : (setLatch .mosi l s).trace = s.trace := rfl
@[simp] theorem setLatch_mosi_responses (l : Level) (s : State) : (setLatch .mosi l s).responses = s.responses := rfl
@[simp] theorem setLatch_mosi_hostQueue (l : Level) (s : State) : (setLatch .mosi l s).hostQueue = s.hostQueue := rfl
@[simp] theorem setLatch_mosi_misoIn (l : Level) (s : State) : (setLatch .mosi l s).misoIn = s.misoIn := rfl
@[simp] theorem setLatch_mosi_draws (l : Level) (s : State) : (setLatch .mosi l s).draws = s.draws := rfl

/-! ### setLatch_csn -/

@[simp] theorem setLatch_csn_cfg (l : Level) (s : State) : (setLatch .csn l s).cfg = s.cfg := rfl
@[simp] theorem setLatch_csn_oe (l : Level) (s : State) : (setLatch .csn l s).oe = s.oe := rfl
@[simp] theorem setLatch_csn_sckQ (l : Level) (s : State) : (setLatch .csn l s).sckQ = s.sckQ := rfl
@[simp] theorem setLatch_csn_mosiQ (l : Level) (s : State) : (setLatch .csn l s).mosiQ = s.mosiQ := rfl
@[simp] theorem setLatch_csn_csnQ (l : Level) (s : State) : (setLatch .csn l s).csnQ = l := rfl
@[simp] theorem setLatch_csn_csAsserted (l : Level) (s : State) : (setLatch .csn l s).csAsserted = s.csAsserted := rfl
@[simp] theorem setLatch_csn_shiftOut (l : Level) (s : State) : (setLatch .csn l s).shiftOut = s.shiftOut := rfl
@[simp] theorem setLatch_csn_shiftIn (l : Level) (s : State) : (setLatch .csn l s).shiftIn = s.shiftIn := rfl
@[simp] theorem setLatch_csn_bitCnt (l : Level) (s : State) : (setLatch .csn l s).bitCnt = s.bitCnt := rfl
@[simp] theorem setLatch_csn_fault (l : Level) (s : State) : (setLatch .csn l s).fault = s.fault := rfl
@[simp] theorem setLatch_csn_polls (l : Level) (s : State) : (setLatch .csn l s).polls = s.polls := rfl
@[simp] theorem setLatch_csn_seq (l : Level) (s : State) : (setLatch .csn l s).seq = s.seq := rfl
@[simp] theorem setLatch_csn_weArmed (l : Level) (s : State) : (setLatch .csn l s).weArmed = s.weArmed := rfl
@[simp] theorem setLatch_csn_lastRdyn (l : Level) (s : State) : (setLatch .csn l s).lastRdyn = s.lastRdyn := rfl
@[simp] theorem setLatch_csn_obligationViolated (l : Level) (s : State) : (setLatch .csn l s).obligationViolated = s.obligationViolated := rfl
@[simp] theorem setLatch_csn_trace (l : Level) (s : State) : (setLatch .csn l s).trace = s.trace := rfl
@[simp] theorem setLatch_csn_responses (l : Level) (s : State) : (setLatch .csn l s).responses = s.responses := rfl
@[simp] theorem setLatch_csn_hostQueue (l : Level) (s : State) : (setLatch .csn l s).hostQueue = s.hostQueue := rfl
@[simp] theorem setLatch_csn_misoIn (l : Level) (s : State) : (setLatch .csn l s).misoIn = s.misoIn := rfl
@[simp] theorem setLatch_csn_draws (l : Level) (s : State) : (setLatch .csn l s).draws = s.draws := rfl

/-! ### sampleMiso -/

@[simp] theorem sampleMiso_cfg (s : State) : (sampleMiso s).cfg = s.cfg := rfl
@[simp] theorem sampleMiso_oe (s : State) : (sampleMiso s).oe = s.oe := rfl
@[simp] theorem sampleMiso_sckQ (s : State) : (sampleMiso s).sckQ = s.sckQ := rfl
@[simp] theorem sampleMiso_mosiQ (s : State) : (sampleMiso s).mosiQ = s.mosiQ := rfl
@[simp] theorem sampleMiso_csnQ (s : State) : (sampleMiso s).csnQ = s.csnQ := rfl
@[simp] theorem sampleMiso_csAsserted (s : State) : (sampleMiso s).csAsserted = s.csAsserted := rfl
@[simp] theorem sampleMiso_shiftOut (s : State) : (sampleMiso s).shiftOut = s.shiftOut := rfl
@[simp] theorem sampleMiso_shiftIn (s : State) : (sampleMiso s).shiftIn = s.shiftIn := rfl
@[simp] theorem sampleMiso_bitCnt (s : State) : (sampleMiso s).bitCnt = s.bitCnt := rfl
@[simp] theorem sampleMiso_fault (s : State) : (sampleMiso s).fault = s.fault := rfl
@[simp] theorem sampleMiso_polls (s : State) : (sampleMiso s).polls = s.polls := rfl
@[simp] theorem sampleMiso_seq (s : State) : (sampleMiso s).seq = s.seq := rfl
@[simp] theorem sampleMiso_weArmed (s : State) : (sampleMiso s).weArmed = s.weArmed := rfl
@[simp] theorem sampleMiso_lastRdyn (s : State) : (sampleMiso s).lastRdyn = s.lastRdyn := rfl
@[simp] theorem sampleMiso_obligationViolated (s : State) : (sampleMiso s).obligationViolated = s.obligationViolated := rfl
@[simp] theorem sampleMiso_trace (s : State) : (sampleMiso s).trace = s.trace ++ [.sample .miso (s.level 0)] := rfl
@[simp] theorem sampleMiso_responses (s : State) : (sampleMiso s).responses = s.responses := rfl
@[simp] theorem sampleMiso_hostQueue (s : State) : (sampleMiso s).hostQueue = s.hostQueue := rfl
@[simp] theorem sampleMiso_misoIn (s : State) : (sampleMiso s).misoIn = s.misoIn.tail := rfl
@[simp] theorem sampleMiso_draws (s : State) : (sampleMiso s).draws = s.draws + 1 := rfl

/-! ### csWrite -/

@[simp] theorem csWrite_cfg (a : Bool) (s : State) : (csWrite a s).cfg = s.cfg := rfl
@[simp] theorem csWrite_oe (a : Bool) (s : State) : (csWrite a s).oe = s.oe := rfl
@[simp] theorem csWrite_sckQ (a : Bool) (s : State) : (csWrite a s).sckQ = s.sckQ := rfl
@[simp] theorem csWrite_mosiQ (a : Bool) (s : State) : (csWrite a s).mosiQ = s.mosiQ := rfl
@[simp] theorem csWrite_csnQ (a : Bool) (s : State) : (csWrite a s).csnQ = csLevel s.cfg a := rfl
@[simp] theorem csWrite_csAsserted (a : Bool) (s : State) : (csWrite a s).csAsserted = a := rfl
@[simp] theorem csWrite_shiftOut (a : Bool) (s : State) : (csWrite a s).shiftOut = s.shiftOut := rfl
@[simp] theorem csWrite_shiftIn (a : Bool) (s : State) : (csWrite a s).shiftIn = s.shiftIn := rfl
@[simp] theorem csWrite_bitCnt (a : Bool) (s : State) : (csWrite a s).bitCnt = s.bitCnt := rfl
@[simp] theorem csWrite_fault (a : Bool) (s : State) : (csWrite a s).fault = s.fault := rfl
@[simp] theorem csWrite_polls (a : Bool) (s : State) : (csWrite a s).polls = s.polls := rfl
@[simp] theorem csWrite_seq (a : Bool) (s : State) : (csWrite a s).seq = s.seq := rfl
@[simp] theorem csWrite_weArmed (a : Bool) (s : State) : (csWrite a s).weArmed = s.weArmed := rfl
@[simp] theorem csWrite_lastRdyn (a : Bool) (s : State) : (csWrite a s).lastRdyn = s.lastRdyn := rfl
@[simp] theorem csWrite_obligationViolated (a : Bool) (s : State) : (csWrite a s).obligationViolated = s.obligationViolated := rfl
@[simp] theorem csWrite_trace (a : Bool) (s : State) : (csWrite a s).trace = s.trace ++ [.drive .csn (csLevel s.cfg a)] ++ [.delay .cs] := rfl
@[simp] theorem csWrite_responses (a : Bool) (s : State) : (csWrite a s).responses = s.responses := rfl
@[simp] theorem csWrite_hostQueue (a : Bool) (s : State) : (csWrite a s).hostQueue = s.hostQueue := rfl
@[simp] theorem csWrite_misoIn (a : Bool) (s : State) : (csWrite a s).misoIn = s.misoIn := rfl
@[simp] theorem csWrite_draws (a : Bool) (s : State) : (csWrite a s).draws = s.draws := rfl

/-! ### respond -/

@[simp] theorem respond_cfg (r : Response) (s : State) : (respond r s).cfg = s.cfg := rfl
@[simp] theorem respond_oe (r : Response) (s : State) : (respond r s).oe = s.oe := rfl
@[simp] theorem respond_sckQ (r : Response) (s : State) : (respond r s).sckQ = s.sckQ := rfl
@[simp] theorem respond_mosiQ (r : Response) (s : State) : (respond r s).mosiQ = s.mosiQ := rfl
@[simp] theorem respond_csnQ (r : Response) (s : State) : (respond r s).csnQ = s.csnQ := rfl
@[simp] theorem respond_csAsserted (r : Response) (s : State) : (respond r s).csAsserted = s.csAsserted := rfl
@[simp] theorem respond_shiftOut (r : Response) (s : State) : (respond r s).shiftOut = s.shiftOut := rfl
@[simp] theorem respond_shiftIn (r : Response) (s : State) : (respond r s).shiftIn = s.shiftIn := rfl
@[simp] theorem respond_bitCnt (r : Response) (s : State) : (respond r s).bitCnt = s.bitCnt := rfl
@[simp] theorem respond_fault (r : Response) (s : State) : (respond r s).fault = s.fault := rfl
@[simp] theorem respond_polls (r : Response) (s : State) : (respond r s).polls = s.polls := rfl
@[simp] theorem respond_seq (r : Response) (s : State) : (respond r s).seq = .idle := rfl
@[simp] theorem respond_weArmed (r : Response) (s : State) : (respond r s).weArmed = s.weArmed := rfl
@[simp] theorem respond_lastRdyn (r : Response) (s : State) : (respond r s).lastRdyn = s.lastRdyn := rfl
@[simp] theorem respond_obligationViolated (r : Response) (s : State) : (respond r s).obligationViolated = s.obligationViolated := rfl
@[simp] theorem respond_trace (r : Response) (s : State) : (respond r s).trace = s.trace := rfl
@[simp] theorem respond_responses (r : Response) (s : State) : (respond r s).responses = s.responses ++ [r] := rfl
@[simp] theorem respond_hostQueue (r : Response) (s : State) : (respond r s).hostQueue = s.hostQueue := rfl
@[simp] theorem respond_misoIn (r : Response) (s : State) : (respond r s).misoIn = s.misoIn := rfl
@[simp] theorem respond_draws (r : Response) (s : State) : (respond r s).draws = s.draws := rfl

/-! ### raiseFault -/

@[simp] theorem raiseFault_cfg (k : FaultKind) (s : State) : (raiseFault k s).cfg = s.cfg := rfl
@[simp] theorem raiseFault_oe (k : FaultKind) (s : State) : (raiseFault k s).oe = s.oe := rfl
@[simp] theorem raiseFault_sckQ (k : FaultKind) (s : State) : (raiseFault k s).sckQ = s.sckQ := rfl
@[simp] theorem raiseFault_mosiQ (k : FaultKind) (s : State) : (raiseFault k s).mosiQ = s.mosiQ := rfl
@[simp] theorem raiseFault_csnQ (k : FaultKind) (s : State) : (raiseFault k s).csnQ = s.csnQ := rfl
@[simp] theorem raiseFault_csAsserted (k : FaultKind) (s : State) : (raiseFault k s).csAsserted = s.csAsserted := rfl
@[simp] theorem raiseFault_shiftOut (k : FaultKind) (s : State) : (raiseFault k s).shiftOut = s.shiftOut := rfl
@[simp] theorem raiseFault_shiftIn (k : FaultKind) (s : State) : (raiseFault k s).shiftIn = s.shiftIn := rfl
@[simp] theorem raiseFault_bitCnt (k : FaultKind) (s : State) : (raiseFault k s).bitCnt = s.bitCnt := rfl
@[simp] theorem raiseFault_fault (k : FaultKind) (s : State) : (raiseFault k s).fault = some k := rfl
@[simp] theorem raiseFault_polls (k : FaultKind) (s : State) : (raiseFault k s).polls = s.polls := rfl
@[simp] theorem raiseFault_seq (k : FaultKind) (s : State) : (raiseFault k s).seq = .idle := rfl
@[simp] theorem raiseFault_weArmed (k : FaultKind) (s : State) : (raiseFault k s).weArmed = s.weArmed := rfl
@[simp] theorem raiseFault_lastRdyn (k : FaultKind) (s : State) : (raiseFault k s).lastRdyn = s.lastRdyn := rfl
@[simp] theorem raiseFault_obligationViolated (k : FaultKind) (s : State) : (raiseFault k s).obligationViolated = s.obligationViolated := rfl
@[simp] theorem raiseFault_trace (k : FaultKind) (s : State) : (raiseFault k s).trace = s.trace := rfl
@[simp] theorem raiseFault_responses (k : FaultKind) (s : State) : (raiseFault k s).responses = s.responses ++ [.faulted k] := rfl
@[simp] theorem raiseFault_hostQueue (k : FaultKind) (s : State) : (raiseFault k s).hostQueue = s.hostQueue := rfl
@[simp] theorem raiseFault_misoIn (k : FaultKind) (s : State) : (raiseFault k s).misoIn = s.misoIn := rfl
@[simp] theorem raiseFault_draws (k : FaultKind) (s : State) : (raiseFault k s).draws = s.draws := rfl

/-! ### afterByte -/

@[simp] theorem afterByte_cfg (out : Byte) (s : State) : (s.afterByte out).cfg = s.cfg := rfl
@[simp] theorem afterByte_oe (out : Byte) (s : State) : (s.afterByte out).oe = s.oe := rfl
@[simp] theorem afterByte_sckQ (out : Byte) (s : State) : (s.afterByte out).sckQ = false := rfl
@[simp] theorem afterByte_mosiQ (out : Byte) (s : State) : (s.afterByte out).mosiQ = out.getLsbD 0 := rfl
@[simp] theorem afterByte_csnQ (out : Byte) (s : State) : (s.afterByte out).csnQ = s.csnQ := rfl
@[simp] theorem afterByte_csAsserted (out : Byte) (s : State) : (s.afterByte out).csAsserted = s.csAsserted := rfl
@[simp] theorem afterByte_shiftOut (out : Byte) (s : State) : (s.afterByte out).shiftOut = out := rfl
@[simp] theorem afterByte_shiftIn (out : Byte) (s : State) : (s.afterByte out).shiftIn = s.byteIn 0 := rfl
@[simp] theorem afterByte_bitCnt (out : Byte) (s : State) : (s.afterByte out).bitCnt = 8 := rfl
@[simp] theorem afterByte_fault (out : Byte) (s : State) : (s.afterByte out).fault = s.fault := rfl
@[simp] theorem afterByte_polls (out : Byte) (s : State) : (s.afterByte out).polls = s.polls := rfl
@[simp] theorem afterByte_seq (out : Byte) (s : State) : (s.afterByte out).seq = s.seq := rfl
@[simp] theorem afterByte_weArmed (out : Byte) (s : State) : (s.afterByte out).weArmed = s.weArmed := rfl
@[simp] theorem afterByte_lastRdyn (out : Byte) (s : State) : (s.afterByte out).lastRdyn = s.lastRdyn := rfl
@[simp] theorem afterByte_obligationViolated (out : Byte) (s : State) : (s.afterByte out).obligationViolated = s.obligationViolated := rfl
@[simp] theorem afterByte_trace (out : Byte) (s : State) : (s.afterByte out).trace = s.trace ++ byteEvents out s.level := rfl
@[simp] theorem afterByte_responses (out : Byte) (s : State) : (s.afterByte out).responses = s.responses := rfl
@[simp] theorem afterByte_hostQueue (out : Byte) (s : State) : (s.afterByte out).hostQueue = s.hostQueue := rfl
@[simp] theorem afterByte_misoIn (out : Byte) (s : State) : (s.afterByte out).misoIn = s.misoIn.drop 8 := rfl
@[simp] theorem afterByte_draws (out : Byte) (s : State) : (s.afterByte out).draws = s.draws + 8 := rfl

/-! ### afterFrame -/

@[simp] theorem afterFrame_cfg (bytes : List Byte) (s : State) : (s.afterFrame bytes).cfg = s.cfg := rfl
@[simp] theorem afterFrame_oe (bytes : List Byte) (s : State) : (s.afterFrame bytes).oe = s.oe := rfl
@[simp] theorem afterFrame_sckQ (bytes : List Byte) (s : State) : (s.afterFrame bytes).sckQ = false := rfl
@[simp] theorem afterFrame_mosiQ (bytes : List Byte) (s : State) : (s.afterFrame bytes).mosiQ = (bytes.getLastD 0).getLsbD 0 := rfl
@[simp] theorem afterFrame_csnQ (bytes : List Byte) (s : State) : (s.afterFrame bytes).csnQ = !s.cfg.csActiveLevel := rfl
@[simp] theorem afterFrame_csAsserted (bytes : List Byte) (s : State) : (s.afterFrame bytes).csAsserted = false := rfl
@[simp] theorem afterFrame_shiftOut (bytes : List Byte) (s : State) : (s.afterFrame bytes).shiftOut = bytes.getLastD 0 := rfl
@[simp] theorem afterFrame_shiftIn (bytes : List Byte) (s : State) : (s.afterFrame bytes).shiftIn = s.byteIn (bytes.length - 1) := rfl
@[simp] theorem afterFrame_bitCnt (bytes : List Byte) (s : State) : (s.afterFrame bytes).bitCnt = 8 := rfl
@[simp] theorem afterFrame_fault (bytes : List Byte) (s : State) : (s.afterFrame bytes).fault = s.fault := rfl
@[simp] theorem afterFrame_polls (bytes : List Byte) (s : State) : (s.afterFrame bytes).polls = s.polls := rfl
@[simp] theorem afterFrame_seq (bytes : List Byte) (s : State) : (s.afterFrame bytes).seq = s.seq := rfl
@[simp] theorem afterFrame_weArmed (bytes : List Byte) (s : State) : (s.afterFrame bytes).weArmed = s.weArmed := rfl
@[simp] theorem afterFrame_lastRdyn (bytes : List Byte) (s : State) : (s.afterFrame bytes).lastRdyn = s.lastRdyn := rfl
@[simp] theorem afterFrame_obligationViolated (bytes : List Byte) (s : State) : (s.afterFrame bytes).obligationViolated = s.obligationViolated := rfl
@[simp] theorem afterFrame_trace (bytes : List Byte) (s : State) : (s.afterFrame bytes).trace = s.trace ++ frameEvents s.cfg bytes s.level := rfl
@[simp] theorem afterFrame_responses (bytes : List Byte) (s : State) : (s.afterFrame bytes).responses = s.responses := rfl
@[simp] theorem afterFrame_hostQueue (bytes : List Byte) (s : State) : (s.afterFrame bytes).hostQueue = s.hostQueue := rfl
@[simp] theorem afterFrame_misoIn (bytes : List Byte) (s : State) : (s.afterFrame bytes).misoIn = s.misoIn.drop (8 * bytes.length) := rfl
@[simp] theorem afterFrame_draws (bytes : List Byte) (s : State) : (s.afterFrame bytes).draws = s.draws + 8 * bytes.length := rfl

end Sys2Proof.Machine
end

