-- ==== Sys2Proof/Laws/Ops.lean ====
section
/-! SUPPORT. One lemma per shared operation, saying all it does: the byte exchange, the frame, the command frame, the checks. -/

namespace Sys2Proof.Machine

/-! ### Levels and bytes to come -/

theorem level_congr {s t : State} {n : Nat} (hm : t.misoIn = s.misoIn.drop n) (hd : t.draws = s.draws + n) (k : Nat) :
    t.level k = s.level (n + k) := by
  simp [State.level, hm, hd, List.getD_eq_getElem?_getD, Nat.add_assoc]

theorem byteIn_congr {s t : State} {n : Nat} (hm : t.misoIn = s.misoIn.drop (8 * n)) (hd : t.draws = s.draws + 8 * n) (k : Nat) :
    t.byteIn k = s.byteIn (n + k) := by
  unfold State.byteIn
  congr 1
  funext j
  rw [level_congr hm hd]
  congr 1
  omega

@[simp] theorem afterByte_level (out : Byte) (s : State) (k : Nat) : (s.afterByte out).level k = s.level (8 + k) :=
  level_congr rfl rfl k

@[simp] theorem afterByte_byteIn (out : Byte) (s : State) (k : Nat) : (s.afterByte out).byteIn k = s.byteIn (1 + k) :=
  byteIn_congr rfl rfl k

@[simp] theorem afterFrame_level (bytes : List Byte) (s : State) (k : Nat) :
    (s.afterFrame bytes).level k = s.level (8 * bytes.length + k) :=
  level_congr rfl rfl k

@[simp] theorem afterFrame_byteIn (bytes : List Byte) (s : State) (k : Nat) :
    (s.afterFrame bytes).byteIn k = s.byteIn (bytes.length + k) :=
  byteIn_congr rfl rfl k

/-! ### The byte exchange -/

/-- All that one bit of an exchange does (R75). -/
theorem xferBit_eq (out : Byte) (s : State) (k : Nat) :
    xferBit out s k =
      { s with
        sckQ := false, mosiQ := out.getLsbD (7 - k), shiftIn := s.shiftIn <<< 1 ||| (BitVec.ofBool (s.level 0)).setWidth 8
        bitCnt := k + 1, trace := s.trace ++ bitEvents out (fun _ => s.level 0) k, misoIn := s.misoIn.tail, draws := s.draws + 1 } := by
  simp only [xferBit, bitEvents, drive, settle, sampleMiso, emit, setLatch, State.level, List.append_assoc]
  rfl

/-- The accumulation of eight sampled bits is the byte they make (R75, R80). -/
theorem accumulate_eq : ∀ a b c d e f g h : Bool,
    (((((((BitVec.ofBool a).setWidth 8 <<< 1 ||| (BitVec.ofBool b).setWidth 8) <<< 1 ||| (BitVec.ofBool c).setWidth 8) <<< 1
      ||| (BitVec.ofBool d).setWidth 8) <<< 1 ||| (BitVec.ofBool e).setWidth 8) <<< 1 ||| (BitVec.ofBool f).setWidth 8) <<< 1
      ||| (BitVec.ofBool g).setWidth 8) <<< 1 ||| (BitVec.ofBool h).setWidth 8
      = (BitVec.ofNat 8 (a.toNat * 128 + (b.toNat * 64 + (c.toNat * 32 + (d.toNat * 16 + (e.toNat * 8 + (f.toNat * 4
        + (g.toNat * 2 + h.toNat))))))) : Byte) := by
  decide

/-- All that an exchange does (R75, R79, R80). -/
theorem xferByte_eq (out : Byte) (s : State) : xferByte out s = s.afterByte out := by
  have hl (l : List Level) (d k n : Nat) :
      (l.drop n).getD k (Config.freeMiso (d + n + k)) = l.getD (n + k) (Config.freeMiso (d + (n + k))) := by
    simp [List.getD_eq_getElem?_getD, Nat.add_assoc]
  have hl0 (l : List Level) (d n : Nat) :
      (l.drop n).getD 0 (Config.freeMiso (d + n)) = l.getD n (Config.freeMiso (d + n)) := hl l d 0 n
  simp only [xferByte, List.foldl_cons, List.foldl_nil, xferBit_eq, State.level, ← List.drop_one, List.drop_drop, Nat.add_assoc,
    Nat.reduceAdd, Nat.add_zero, hl0, State.afterByte, State.byteIn, byteOf, byteEvents, bitEvents,
    List.flatMap_cons, List.flatMap_nil, List.append_assoc, List.cons_append, List.nil_append, List.append_nil]
  simp [accumulate_eq]

/-! ### The frame -/

/-- All that the exchanges of a non-empty byte sequence do (R83). -/
theorem exchange_eq (bytes : List Byte) (s : State) (h : bytes ≠ []) :
    exchange bytes s = (s.bytesIn bytes.length,
      { s with
        sckQ := false, mosiQ := (bytes.getLastD 0).getLsbD 0, shiftOut := bytes.getLastD 0
        shiftIn := s.byteIn (bytes.length - 1), bitCnt := 8, trace := s.trace ++ exchangeEvents bytes s.level
        misoIn := s.misoIn.drop (8 * bytes.length), draws := s.draws + 8 * bytes.length }) := by
  induction bytes generalizing s with
  | nil => exact absurd rfl h
  | cons b bs ih =>
    by_cases hb : bs = []
    · subst hb
      simp [exchange, xferByte_eq, exchangeEvents, State.afterByte, State.bytesIn]
    · have hlev : (s.afterByte b).level = fun j => s.level (j + 8) := by
        funext j
        rw [afterByte_level, Nat.add_comm]
      have hrange : List.range (bs.length + 1) = 0 :: (List.range bs.length).map (1 + ·) := by
        rw [List.range_succ_eq_map]
        simp [Nat.add_comm]
      have hlast : (b :: bs).getLastD 0 = bs.getLastD 0 := by
        cases bs with
        | nil => exact absurd rfl hb
        | cons c cs => rfl
      have hpos : 1 + (bs.length - 1) = bs.length := by
        have := List.length_pos_iff.mpr hb
        omega
      simp only [exchange, xferByte_eq, ih _ hb, hlev, hlast, State.bytesIn, List.length_cons, hrange, List.map_cons, List.map_map,
        exchangeEvents]
      simp [Function.comp_def, hpos, List.append_assoc, Nat.mul_add, Nat.add_comm]
      omega

/-- All that a frame does (R83, R84). -/
theorem frame_eq (bytes : List Byte) (s : State) (h : bytes ≠ []) :
    frame bytes s = (s.bytesIn bytes.length, s.afterFrame bytes) := by
  have hlev : (csWrite true s).level = s.level := rfl
  simp only [frame, exchange_eq _ _ h, hlev]
  refine Prod.ext rfl ?_
  simp [csWrite, drive, settle, emit, setLatch, csLevel, State.afterFrame, frameEvents]
  rfl

end Sys2Proof.Machine
end

