-- ==== Sys2Proof/Laws/Sequencer.lean ====
section
/-! SUPPORT. What a command frame does, and one principle for everything a request can do: a property that every command frame keeps
and every end of a request turns into the property wanted (`SeqClosed`) holds after any instruction and any step. -/

namespace Sys2Proof.Machine

/-! ### Command frames -/

theorem frameOf_ne_nil (cfg : Config) (i : Instr) (h : i.isWire = true) : frameOf cfg i ≠ [] := by
  cases i <;> simp [frameOf, Instr.isWire] at h ⊢

/-- `ghost_before` changes the ghost OBLIGATION_VIOLATED at most (R92). -/
theorem ghostBefore_eq (c : Command) (s : State) :
    ghostBefore c s =
      { s with obligationViolated := s.obligationViolated || (needsWriteEnable c && (!s.weArmed || s.lastRdyn)) } := by
  unfold ghostBefore
  split
  · simp_all
  · rename_i h
    rw [Bool.not_eq_true] at h
    rw [h, Bool.or_false]

/-- `ghost_after` changes LAST_RDYN after RDSR, nothing after WREN, WE_ARMED after any other command (R92). -/
theorem ghostAfter_eq (c : Command) (st : Byte) (s : State) :
    ghostAfter c st s =
      { s with
        lastRdyn := if c = .rdsr then busy st else s.lastRdyn
        weArmed := if c = .rdsr ∨ c = .wren then s.weArmed else false } := by
  cases c <;> simp [ghostAfter]

/-- All that a command frame does (R83, R92). -/
theorem sendCommand_eq (c : Command) (bytes : List Byte) (s : State) (h : bytes ≠ []) :
    sendCommand c bytes s =
      (s.bytesIn bytes.length,
        { s.afterFrame bytes with
          obligationViolated := s.obligationViolated || (needsWriteEnable c && (!s.weArmed || s.lastRdyn))
          lastRdyn := if c = .rdsr then busy (statusByte (s.bytesIn bytes.length)) else s.lastRdyn
          weArmed := if c = .rdsr ∨ c = .wren then s.weArmed else false }) := by
  have hb : (ghostBefore c s).bytesIn bytes.length = s.bytesIn bytes.length := by rw [ghostBefore_eq]; rfl
  simp only [sendCommand, frame_eq _ _ h, hb, ghostAfter_eq]
  refine Prod.ext rfl ?_
  simp only [ghostBefore_eq, State.afterFrame]
  rfl

/-- The status byte of a two-byte frame is the second byte the device sends (R53, R87). -/
@[simp] theorem statusByte_bytesIn (s : State) (n : Nat) : statusByte (s.bytesIn (n + 2)) = s.byteIn 1 := by
  simp [statusByte, State.bytesIn, List.getD_eq_getElem?_getD]

/-- The data of a READ frame are the bytes after the first three (R55, R89). -/
theorem readData_bytesIn (s : State) (n : Nat) :
    readData (s.bytesIn (n + 3)) = (List.range n).map fun k => s.byteIn (3 + k) := by
  have : List.range (n + 3) = [0, 1, 2] ++ (List.range n).map (3 + ·) := by
    rw [Nat.add_comm, List.range_add]
    rfl
  simp [readData, State.bytesIn, this, Function.comp_def]

/-- A status-read frame, its status, and what it leaves (R87, R92). -/
theorem readStatusThen_eq (k : Byte → State → State) (s : State) :
    readStatusThen k s =
      k (s.byteIn 1) { s.afterFrame [s.cfg.opRdsr, s.cfg.dummy] with lastRdyn := busy (s.byteIn 1) } := by
  simp only [readStatusThen, frameOf, sendCommand_eq _ _ _ (List.cons_ne_nil _ _), List.length_cons, List.length_nil,
    statusByte_bytesIn]
  simp [needsWriteEnable, State.afterFrame]

/-- The WREN frame and what it leaves (R92, R99). -/
theorem sendWren_eq (s : State) : sendWren s = s.afterFrame [s.cfg.opWren] := by
  simp only [sendWren, frameOf, sendCommand_eq _ _ _ (List.cons_ne_nil _ _)]
  simp [needsWriteEnable, State.afterFrame]

/-- A PROGRAM frame and what it leaves (R90, R92). -/
theorem sendProgram_eq (addr : Addr) (data : List Byte) (s : State) :
    sendProgram addr data s =
      { s.afterFrame (frameOf s.cfg (.opProgram addr data)) with
        obligationViolated := s.obligationViolated || (!s.weArmed || s.lastRdyn), weArmed := false } := by
  simp only [sendProgram, sendCommand_eq _ _ _ (frameOf_ne_nil s.cfg (.opProgram addr data) rfl)]
  simp [needsWriteEnable, State.afterFrame]

/-! ### The checks -/

/-- `command_checks()` passes on a ready state. -/
theorem commandChecks_ready {s : State} (h : s.Ready) (body : State → State) : commandChecks body s = body s := by
  simp [commandChecks, busChecks, sessionCheck, h.1, h.2.1, h.2.2]

/-- `command_checks()` refuses with the first check that fails (R114). -/
theorem commandChecks_refuse {s : State} {reason : RefusalReason} (h : s.checkRefusal = some reason) (body : State → State) :
    commandChecks body s = refuse reason s := by
  unfold State.checkRefusal at h
  unfold commandChecks busChecks sessionCheck
  cases hf : s.fault <;> cases ho : s.oe <;> cases hc : s.csAsserted <;> simp_all

/-- All that `command_checks()` can do (R114). -/
theorem commandChecks_cases (body : State → State) (s : State) :
    (s.Ready ∧ commandChecks body s = body s) ∨ (¬ s.Ready ∧ ∃ r, commandChecks body s = refuse r s) := by
  unfold State.Ready commandChecks busChecks sessionCheck
  rcases s.fault with _ | k
  · by_cases h : s.oe <;> by_cases h' : s.csAsserted <;> simp only [h, h'] <;> simp
    all_goals exact ⟨_, rfl⟩
  · simp only [Option.isSome_some]
    simp
    exact ⟨_, rfl⟩

/-! ### The principle -/

/-- A response that is the result of a request that ran: neither a refusal nor a fault (R28). -/
def isResult : Response → Bool
  | .done | .byte _ | .status _ | .bytes _ => true
  | .refused _ | .faulted _ => false

/-- The lines are as a frame leaves them (R83, R84). -/
abbrev State.FrameEnded (s : State) : Prop := s.csnQ = (!s.cfg.csActiveLevel) ∧ s.sckQ = false ∧ s.csAsserted = false

/-- `I` is kept by every command frame and by the sequencer's own bookkeeping, and gives `Q` at every place a request can end or a step
can stop in a busy wait. -/
structure SeqClosed (I Q : State → Prop) : Prop where
  send : ∀ c i s, i.isWire = true → I s → I (sendCommand c (frameOf s.cfg i) s).2
  seq : ∀ q s, I s → I { s with seq := q }
  polls : ∀ n s, I s → I { s with polls := n }
  arm : ∀ s, I s → I { s with weArmed := true }
  respond : ∀ r s, isResult r = true → I s → Q (respond r s)
  fault : ∀ k s, I s → s.FrameEnded → (k = .deviceUnresponsive → s.cfg.pollLimit ≠ none) → Q (raiseFault k s)
  park : ∀ s, I s → s.seq.isWait = true → Q s

variable {I Q : State → Prop}

theorem afterPoll_closed (hc : SeqClosed I Q) {k : State → State} (hk : ∀ s, I s → Q (k s)) (st : Byte) {s : State} (h : I s)
    (hf : s.FrameEnded) (hw : s.seq.isWait = true) : Q (afterPoll k st s) := by
  unfold afterPoll
  dsimp only
  split
  · split
    · rename_i n hn
      split
      · exact hc.fault _ _ (hc.polls _ _ h) hf fun _ => by simp [hn]
      · exact hc.park _ (hc.polls _ _ h) hw
    · exact hc.park _ (hc.polls _ _ h) hw
  · exact hk _ (hc.polls _ _ h)

theorem afterConfirm_closed (hc : SeqClosed I Q) {k : State → State} (hk : ∀ s, I s → Q (k s)) (st : Byte) {s : State}
    (h : I s) (hf : s.FrameEnded) : Q (afterConfirm k st s) := by
  unfold afterConfirm
  split
  · exact hk _ (hc.arm _ h)
  · exact hc.fault _ _ h hf fun he => by simp at he

theorem sendCommand_seq (c : Command) (bytes : List Byte) (s : State) (hb : bytes ≠ []) : (sendCommand c bytes s).2.seq = s.seq := by
  rw [sendCommand_eq _ _ _ hb]
  rfl

theorem sendCommand_frameEnded (c : Command) (bytes : List Byte) (s : State) (hb : bytes ≠ []) :
    (sendCommand c bytes s).2.FrameEnded := by
  rw [sendCommand_eq _ _ _ hb]
  exact ⟨rfl, rfl, rfl⟩

theorem readStatusThen_closed (hc : SeqClosed I Q) {k : Byte → State → State} {s : State} (h : I s)
    (hk : ∀ st t, I t → t.seq = s.seq → t.FrameEnded → Q (k st t)) : Q (readStatusThen k s) :=
  hk _ _ (hc.send _ .opRdsr _ rfl h) (sendCommand_seq _ _ _ (frameOf_ne_nil _ _ rfl))
    (sendCommand_frameEnded _ _ _ (frameOf_ne_nil _ _ rfl))

theorem waitReadyThen_closed (hc : SeqClosed I Q) {pos : Seq} (hp : pos.isWait = true) {k : State → State}
    (hk : ∀ s, I s → Q (k s)) {s : State} (h : I s) : Q (waitReadyThen pos k s) :=
  readStatusThen_closed hc (hc.seq pos _ (hc.polls 0 _ h)) fun st t ht hs hf =>
    afterPoll_closed hc hk st ht hf (by rw [hs]; exact hp)

theorem confirmThen_closed (hc : SeqClosed I Q) (pos : Seq) {k : State → State} (hk : ∀ s, I s → Q (k s)) {s : State}
    (h : I s) : Q (confirmThen pos k s) :=
  readStatusThen_closed hc (hc.seq pos _ h) fun st _ ht _ hf => afterConfirm_closed hc hk st ht hf

theorem sendWren_closed (hc : SeqClosed I Q) {s : State} (h : I s) : I (sendWren s) :=
  hc.send _ .opWren _ rfl h

theorem sendChunk_closed (hc : SeqClosed I Q) (addr : Addr) (data : List Byte) (k : Nat) {s : State} (h : I s) :
    I (sendChunk addr data k s) :=
  hc.send _ (.opProgram _ _) _ rfl (hc.seq _ _ h)

theorem writeEnableThen_closed (hc : SeqClosed I Q) (p q : Seq) {k : State → State} (hk : ∀ s, I s → Q (k s)) {s : State}
    (h : I s) : Q (writeEnableThen p q k s) :=
  confirmThen_closed hc q hk (sendWren_closed hc (hc.seq p _ h))

theorem enableAndSend_closed (hc : SeqClosed I Q) (addr : Addr) (data : List Byte) (k : Nat) {next : State → State}
    (hn : ∀ s, I s → Q (next s)) {s : State} (h : I s) : Q (enableAndSend addr data k next s) :=
  writeEnableThen_closed hc _ _ (fun _ ht => hn _ (sendChunk_closed hc addr data k ht)) h

theorem runChunks_closed (hc : SeqClosed I Q) (addr : Addr) (data : List Byte) (ks : List Nat) :
    ∀ s, I s → Q (runChunks addr data ks s) := by
  induction ks with
  | nil => exact fun s h => hc.respond _ _ rfl h
  | cons k ks ih =>
    exact fun s h => waitReadyThen_closed hc rfl (fun t ht => enableAndSend_closed hc addr data k ih ht) h

theorem goOnAfterStatus_closed (hc : SeqClosed I Q) (st : Byte) (s : State) (h : I s) (hf : s.FrameEnded) :
    Q (goOnAfterStatus st s) := by
  have hn : ∀ addr data k t, I t → Q (nextChunks addr data k t) := fun addr data k t ht => runChunks_closed hc addr data _ t ht
  unfold goOnAfterStatus
  split
  · rename_i hs
    exact afterPoll_closed hc (fun t ht => hc.respond _ _ rfl ht) st h hf (by rw [hs]; rfl)
  · exact afterConfirm_closed hc (fun t ht => hc.respond _ _ rfl ht) st h hf
  · rename_i hs
    exact afterPoll_closed hc (fun t ht => enableAndSend_closed hc _ _ _ (hn _ _ _) ht) st h hf (by rw [hs]; rfl)
  · exact afterConfirm_closed hc (fun t ht => hn _ _ _ _ (sendChunk_closed hc _ _ _ ht)) st h hf
  all_goals exact hc.respond _ _ rfl h

theorem goOnAfterWren_closed (hc : SeqClosed I Q) (s : State) (h : I s) : Q (goOnAfterWren s) := by
  have hn : ∀ addr data k t, I t → Q (nextChunks addr data k t) := fun addr data k t ht => runChunks_closed hc addr data _ t ht
  unfold goOnAfterWren
  split
  · exact confirmThen_closed hc _ (fun t ht => hc.respond _ _ rfl ht) h
  · exact confirmThen_closed hc _ (fun t ht => hn _ _ _ _ (sendChunk_closed hc _ _ _ ht)) h
  all_goals exact hc.respond _ _ rfl h

theorem goOnAfterErase_closed (hc : SeqClosed I Q) (s : State) (h : I s) : Q (goOnAfterErase s) := by
  unfold goOnAfterErase
  split
  · exact waitReadyThen_closed hc rfl (fun t ht => hc.respond _ _ rfl ht) h
  all_goals exact hc.respond _ _ rfl h

theorem goOnAfterProgram_closed (hc : SeqClosed I Q) (s : State) (h : I s) : Q (goOnAfterProgram s) := by
  unfold goOnAfterProgram
  split
  · exact runChunks_closed hc _ _ _ _ h
  all_goals exact hc.respond _ _ rfl h

/-! ### Instructions and steps -/

/-- What SET_OE past its check leaves does not depend on the position it ran at: its end puts SEQ at Idle. -/
theorem hostSetOe_eq (en : Bool) (s : State) : hostSetOe en s = finish (if en then enableBus s else releaseBus s) := by
  cases en <;> rfl

/-- The same of SET_CS. -/
theorem hostSetCs_eq (a : Bool) (s : State) : hostSetCs a s = finish (csWrite a s) := rfl

/-- XFER past its checks, in closed form: the exchange, the byte received as the response, WE_ARMED cleared (R74, R75, R80). -/
theorem hostXfer_eq (out : Byte) (s : State) :
    hostXfer out s =
      { s.afterByte out with weArmed := false, responses := s.responses ++ [.byte (s.byteIn 0)], seq := .idle } := by
  simp only [hostXfer, xferByte_eq]
  rfl

/-- Every instruction answers a next state. -/
theorem exec_next (i : Instr) (s : State) : ∃ t, exec i s = .next t := by
  cases i <;> exact ⟨_, rfl⟩

/-- A property that holds after every refusal, after every transceiver request, and by `SeqClosed` after every frame, holds after every
instruction. -/
theorem exec_closed (hc : SeqClosed I Q) {i : Instr} {s t : State} (h : exec i s = .next t)
    (hrefuse : ∀ r, Q (refuse r s))
    (hoe : ∀ en, i = .setOe en → s.fault = none → Q (finish (if en then enableBus s else releaseBus s)))
    (hcs : ∀ a, i = .setCs a → s.fault = none → s.oe = true → Q (finish (csWrite a s)))
    (hxfer : ∀ out, i = .xfer out → s.fault = none → s.oe = true → Q (hostXfer out s))
    (hI : s.Ready → I s) : Q t := by
  have hcmd (body : State → State) (hb : ∀ u, I u → Q (body u)) : Q (commandChecks body s) := by
    rcases commandChecks_cases body s with ⟨hr, he⟩ | ⟨-, r, he⟩
    · rw [he]
      exact hb _ (hI hr)
    · rw [he]
      exact hrefuse r
  have hbusc (body : State → State) (hb : s.fault = none → s.oe = true → Q (body s)) : Q (busChecks body s) := by
    unfold busChecks sessionCheck
    split
    · exact hrefuse _
    · rename_i hf
      dsimp only
      split
      · exact hb (by simpa using hf) (by assumption)
      · exact hrefuse _
  cases i <;> cases h
  case opRdsr => exact hcmd _ fun u hu => readStatusThen_closed hc hu fun st v hv _ hf => goOnAfterStatus_closed hc st v hv hf
  case opWren => exact hcmd _ fun u hu => goOnAfterWren_closed hc _ (sendWren_closed hc hu)
  case opWrdis => exact hcmd _ fun u hu => hc.respond _ _ rfl (hc.send _ .opWrdis _ rfl hu)
  case opWrsr => exact hcmd _ fun u hu => hc.respond _ _ rfl (hc.send _ (.opWrsr _) _ rfl hu)
  case opErasePage => exact hcmd _ fun u hu => goOnAfterErase_closed hc _ (hc.send _ (.opErasePage _) _ rfl hu)
  case opEraseAll => exact hcmd _ fun u hu => goOnAfterErase_closed hc _ (hc.send _ .opEraseAll _ rfl hu)
  case opProgram => exact hcmd _ fun u hu => goOnAfterProgram_closed hc _ (hc.send _ (.opProgram _ _) _ rfl hu)
  case opRead => exact hcmd _ fun u hu => hc.respond _ _ rfl (hc.send _ (.opRead _ _) _ rfl hu)
  case setOe en =>
    simp only [sessionCheck]
    split
    · exact hrefuse _
    · rename_i hf
      rw [hostSetOe_eq]
      exact hoe en rfl (by simpa using hf)
  case setCs a => exact hbusc (hostSetCs a) (hcs a rfl)
  case xfer out => exact hbusc _ (hxfer out rfl)
  case selectRegion =>
    exact hcmd _ fun u hu => hc.respond _ _ rfl (hc.send _ (.opWrsr _) _ rfl (hc.seq _ _ hu))
  case readStatus =>
    exact hcmd _ fun u hu => readStatusThen_closed hc (hc.seq _ _ hu) fun st v hv _ hf => goOnAfterStatus_closed hc st v hv hf
  case writeDisable =>
    exact hcmd _ fun u hu => hc.respond _ _ rfl (hc.send _ .opWrdis _ rfl (hc.seq _ _ hu))
  case read =>
    exact hcmd _ fun u hu => hc.respond _ _ rfl (hc.send _ (.opRead _ _) _ rfl (hc.seq _ _ hu))
  case program =>
    exact hcmd _ fun u hu => goOnAfterProgram_closed hc _ (hc.send _ (.opProgram _ _) _ rfl (hc.seq _ _ hu))
  case waitReady => exact hcmd _ fun u hu => waitReadyThen_closed hc rfl (fun v hv => hc.respond _ _ rfl hv) hu
  case writeEnable => exact hcmd _ fun u hu => writeEnableThen_closed hc _ _ (fun v hv => hc.respond _ _ rfl hv) hu
  case eraseAll =>
    exact hcmd _ fun u hu => goOnAfterErase_closed hc _ (hc.send _ .opEraseAll _ rfl (hc.seq _ _ hu))
  case erasePage =>
    exact hcmd _ fun u hu => goOnAfterErase_closed hc _ (hc.send _ (.opErasePage _) _ rfl (hc.seq _ _ hu))
  case programChunked addr data =>
    rcases commandChecks_cases (programChunks addr data) s with ⟨hr, he⟩ | ⟨-, r, he⟩
    · rw [he, programChunks]
      split
      · exact hrefuse _
      · exact runChunks_closed hc addr data _ _ (hI hr)
    · rw [he]
      exact hrefuse r

/-- Idle is the one position at which SEQ names nothing to run. -/
theorem idle_of_nothing_pending {cfg : Config} {q : Seq} (hr : pendingRequest q = none) (hp : pendingFrame cfg q = none) : q = .idle := by
  cases q with
  | idle => rfl
  | setOe en => cases hr
  | setCs a => cases hr
  | xfer out => cases hr
  | erase e => cases e <;> cases hp
  | chunk k phase addr data => cases phase <;> cases hp
  | command bytes => cases hp
  | poll w => cases hp
  | enable => cases hp
  | confirm => cases hp

/-- A step at Idle is the host's next move. -/
theorem step_of_idle {s : State} (h : s.seq = .idle) : step s = hostStep s := by
  simp [step, h, pendingRequest, pendingFrame]

/-- A step at the position of a frame sends that frame. -/
theorem step_of_frame {s : State} {bytes : List Byte} (h : pendingFrame s.cfg s.seq = some bytes) : step s = frameStep bytes s := by
  have hr : pendingRequest s.seq = none := by
    cases hs : s.seq <;> simp_all [pendingRequest, pendingFrame]
  simp only [step, hr, h]

/-- All that a step can be: waiting, a reset, a refused request, an instruction run at the state with its host move taken off the queue, or what
SEQ names. -/
theorem step_cases {s t : State} (h : step s = .next t) :
    (s.seq = .idle ∧ s.hostQueue = [] ∧ t = s) ∨
    (∃ rest, s.seq = .idle ∧ s.hostQueue = .reset :: rest ∧ t = sessionReset { s with hostQueue := rest }) ∨
    (∃ r rest e, s.seq = .idle ∧ s.hostQueue = .present r :: rest ∧ decodeRequest r = .error e ∧
      t = refuse (decodeRefusal e) { s with hostQueue := rest }) ∨
    (∃ r rest i, s.seq = .idle ∧ s.hostQueue = .present r :: rest ∧ decodeRequest r = .ok i ∧
      exec i { s with hostQueue := rest } = .next t) ∨
    (∃ bytes i, pendingFrame s.cfg s.seq = some bytes ∧ decodeFrame s.cfg bytes = .ok i ∧ exec i s = .next t) ∨
    (∃ i, pendingRequest s.seq = some i ∧ exec i s = .next t) := by
  unfold step at h
  split at h
  · exact .inr (.inr (.inr (.inr (.inr ⟨_, ‹_›, h⟩))))
  · rename_i bytes _ hp
    unfold frameStep at h
    split at h
    · exact .inr (.inr (.inr (.inr (.inl ⟨_, _, hp, ‹_›, h⟩))))
    · cases h
  · rename_i hr hp
    have hidle := idle_of_nothing_pending hr hp
    unfold hostStep at h
    split at h
    · cases h
      exact .inl ⟨hidle, ‹_›, rfl⟩
    · rename_i r rest hq
      unfold takeRequest at h
      split at h
      · exact .inr (.inr (.inr (.inl ⟨_, _, _, hidle, hq, ‹_›, h⟩)))
      · cases h
        exact .inr (.inr (.inl ⟨_, _, _, hidle, hq, ‹_›, rfl⟩))
    · cases h
      exact .inr (.inl ⟨_, hidle, ‹_›, rfl⟩)

end Sys2Proof.Machine
end

