-- ==== Sys2Proof/Laws/Frames.lean ====
section
/-! SUPPORT. Laws of the closed forms: how long events are, how frames follow one another, what a poll, a write-enable and a chunk do. -/

namespace Sys2Proof.Machine

/-! ### Events -/

/-- An exchange is 56 events (R143). -/
theorem exchangeEvents_length (bytes : List Byte) : ∀ l, (exchangeEvents bytes l).length = 56 * bytes.length := by
  induction bytes with
  | nil => exact fun _ => rfl
  | cons b bs ih =>
    intro l
    simp only [exchangeEvents, List.length_append, ih, List.length_cons]
    simp only [byteEvents, bitEvents, List.flatMap_cons, List.flatMap_nil, List.length_append, List.length_cons, List.length_nil]
    omega

/-- A frame of n bytes is 4 + 56 n events (R143). -/
theorem frameEvents_length (cfg : Config) (bytes : List Byte) (l : Nat → Level) :
    (frameEvents cfg bytes l).length = 4 + 56 * bytes.length := by
  simp only [frameEvents, List.length_append, exchangeEvents_length, List.length_cons, List.length_nil]
  omega

theorem lastLevel_append (p : Pin) (a b : List Event) : lastLevel p (a ++ b) = (lastLevel p b).or (lastLevel p a) := by
  induction a with
  | nil => simp [lastLevel]
  | cons e es ih =>
    simp only [List.cons_append, lastLevel, ih]
    cases lastLevel p b <;> simp

/-! ### Frames one after the other -/

@[simp] theorem afterFrames_nil (s : State) : s.afterFrames [] = s := rfl

@[simp] theorem afterFrames_cons (f : List Byte) (fs : List (List Byte)) (s : State) :
    s.afterFrames (f :: fs) = (s.afterFrame f).afterFrames fs := rfl

theorem afterFrames_append (fs gs : List (List Byte)) (s : State) :
    s.afterFrames (fs ++ gs) = (s.afterFrames fs).afterFrames gs := by
  simp only [State.afterFrames, List.foldl_append]

/-- The bytes after some frames are those that come after all of theirs. -/
theorem afterFrames_byteIn (fs : List (List Byte)) (s : State) (k : Nat) :
    (s.afterFrames fs).byteIn k = s.byteIn ((fs.map List.length).sum + k) := by
  induction fs generalizing s with
  | nil => simp
  | cons f fs ih => simp [ih, Nat.add_assoc]

/-- Frames alone leave everything but the pins, the byte registers, the trace and the inputs. -/
theorem afterFrames_keeps (fs : List (List Byte)) (s : State) :
    ∃ sck mosi csn cs so si bc tr mi dr, s.afterFrames fs =
      { s with
        sckQ := sck, mosiQ := mosi, csnQ := csn, csAsserted := cs, shiftOut := so, shiftIn := si, bitCnt := bc
        trace := tr, misoIn := mi, draws := dr } := by
  induction fs generalizing s with
  | nil => exact ⟨_, _, _, _, _, _, _, _, _, _, rfl⟩
  | cons f fs ih =>
    obtain ⟨a, b, c, d, e, f', g, h, i, j, hs⟩ := ih (s.afterFrame f)
    exact ⟨a, b, c, d, e, f', g, h, i, j, hs⟩

/-- Frames do not look at SEQ, POLLS, the ghosts or the fault: setting them before is setting them after. -/
theorem afterFrames_with (fs : List (List Byte)) (s : State) (p : Nat) (w l o : Bool) (q : Seq) :
    State.afterFrames fs { s with polls := p, weArmed := w, lastRdyn := l, obligationViolated := o, seq := q } =
      { s.afterFrames fs with polls := p, weArmed := w, lastRdyn := l, obligationViolated := o, seq := q } := by
  induction fs generalizing s with
  | nil => rfl
  | cons f fs ih => exact ih (s.afterFrame f)

theorem chunkFrames_length (cfg : Config) (addr : Addr) (data : List Byte) (k : Nat) :
    ((chunkFrames cfg addr data k).map List.length).sum = 8 + (chunkData cfg data k).length := by
  simp only [chunkFrames, addrBytes, List.map_cons, List.map_nil, List.length_append, List.length_cons, List.length_nil,
    List.sum_cons, List.sum_nil]
  omega

/-! ### Polls, write-enables, chunks -/

/-- The last poll of a request in closed form (R96, R98). -/
theorem afterPoll_finish (st : Byte) (s : State) :
    afterPoll finish st s = State.afterLastPoll { s with polls := s.polls + 1 } st := by
  unfold afterPoll State.afterLastPoll
  dsimp only
  cases busy st
  · simp [finish, respond]
  · cases s.cfg.pollLimit <;> simp [raiseFault, respond]

/-- A confirmed write-enable and the chunk's program frame (R99, R104). -/
theorem enableAndSend_confirmed (addr : Addr) (data : List Byte) (k : Nat) (next : State → State) (s : State)
    (h : wen (s.byteIn 2) = true) :
    enableAndSend addr data k next s = next
      { s.afterFrames [[s.cfg.opWren], [s.cfg.opRdsr, s.cfg.dummy],
          [s.cfg.opProgram] ++ addrBytes (chunkAddr s.cfg addr k) ++ chunkData s.cfg data k] with
        weArmed := false, lastRdyn := busy (s.byteIn 2), obligationViolated := s.obligationViolated || busy (s.byteIn 2)
        seq := .chunk k .send addr data } := by
  have e : State.byteIn { (State.afterFrame [s.cfg.opWren] { s with seq := .chunk k .enable addr data }) with
      seq := .chunk k .confirm addr data } 1 = s.byteIn 2 := byteIn_congr (n := 1) rfl rfl 1
  simp only [enableAndSend, writeEnableThen, sendWren_eq, confirmThen, readStatusThen_eq]
  show (if wen (State.byteIn { (State.afterFrame [s.cfg.opWren] { s with seq := .chunk k .enable addr data }) with
      seq := .chunk k .confirm addr data } 1) = true then _ else _) = _
  rw [e, if_pos h]
  simp only [sendChunk, sendProgram_eq]
  congr 1

/-- A chunk whose wait ends at its first poll and whose write-enable is confirmed (R104). -/
theorem chunk_ready (addr : Addr) (data : List Byte) (k : Nat) (next : State → State) (s : State)
    (hb : busy (s.byteIn 1) = false) (hw : wen (s.byteIn 4) = true) :
    waitReadyThen (.chunk k .wait addr data) (enableAndSend addr data k next) s = next
      { s.afterFrames (chunkFrames s.cfg addr data k) with
        polls := 1, weArmed := false, lastRdyn := busy (s.byteIn 4)
        obligationViolated := s.obligationViolated || busy (s.byteIn 4), seq := .chunk k .send addr data } := by
  have e : State.byteIn { (State.afterFrame [s.cfg.opRdsr, s.cfg.dummy] { s with polls := 0, seq := .chunk k .wait addr data }) with
      polls := 0 + 1, lastRdyn := false } 2 = s.byteIn 4 := byteIn_congr (n := 2) rfl rfl 2
  have e1 : State.byteIn { s with polls := 0, seq := .chunk k .wait addr data } 1 = s.byteIn 1 := rfl
  simp only [waitReadyThen, readStatusThen_eq, afterPoll, e1, hb, Bool.false_eq_true, if_false]
  rw [enableAndSend_confirmed]
  · rw [← e]
    rfl
  · rw [← e] at hw
    exact hw

/-! ### The number of chunks -/

theorem chunkCount_le (cfg : Config) (h : 1 ≤ cfg.chunkSize) (len m : Nat) : chunkCount cfg len ≤ m ↔ len ≤ m * cfg.chunkSize := by
  rw [chunkCount, Nat.div_le_iff_le_mul_add_pred (by omega), Nat.mul_comm]
  omega

end Sys2Proof.Machine
end

