-- ==== Sys2Proof/Laws/Observer.lean ====
section
/-! SUPPORT. What an SPI device reads from the events of exchanges and frames. -/

namespace Sys2Proof.Machine

/-- The bits a device takes from an exchange are the byte's, bit 7 first (R38). -/
theorem see_byte (cfg : Config) (b : Byte) (l : Nat → Level) (o : Observer) (hc : o.csn = cfg.csActiveLevel) (hs : o.sck = false) :
    (byteEvents b l).foldl (Observer.see cfg) o = { o with mosi := b.getLsbD 0, bits := o.bits ++ wireBits b } := by
  obtain ⟨sck, mosi, csn, bits, frames⟩ := o
  dsimp only at hc hs
  subst hc hs
  simp [byteEvents, bitEvents, Observer.see, wireBits]

/-- The bits a device takes from the exchanges of a byte sequence. -/
theorem see_exchange (cfg : Config) (bytes : List Byte) (hb : bytes ≠ []) :
    ∀ (l : Nat → Level) (o : Observer), o.csn = cfg.csActiveLevel → o.sck = false →
      (exchangeEvents bytes l).foldl (Observer.see cfg) o =
        { o with mosi := (bytes.getLastD 0).getLsbD 0, bits := o.bits ++ bytes.flatMap wireBits } := by
  induction bytes with
  | nil => exact absurd rfl hb
  | cons b bs ih =>
    intro l o hc hs
    rw [exchangeEvents, List.foldl_append, see_byte cfg b l o hc hs]
    by_cases hb : bs = []
    · subst hb
      simp [exchangeEvents]
    · have hlast : (b :: bs).getLastD 0 = bs.getLastD 0 := by
        cases bs with
        | nil => exact absurd rfl hb
        | cons _ _ => rfl
      rw [ih hb _ { o with mosi := b.getLsbD 0, bits := o.bits ++ wireBits b } hc hs]
      simp only [hlast, List.flatMap_cons, List.append_assoc]

theorem bytesOfBits_wireBits (b : Byte) (rest : List Level) : bytesOfBits (wireBits b ++ rest) = b :: bytesOfBits rest := by
  simp only [wireBits, List.map_cons, List.map_nil, List.cons_append, List.nil_append, bytesOfBits, List.cons.injEq, and_true]
  revert b
  decide

theorem bytesOfBits_flatMap (bytes : List Byte) : bytesOfBits (bytes.flatMap wireBits) = bytes := by
  induction bytes with
  | nil => rfl
  | cons b bs ih => rw [List.flatMap_cons, bytesOfBits_wireBits, ih]

/-- From the levels between frames, a device reads one frame's events as that frame, and is left at the levels between frames. -/
theorem see_frame (cfg : Config) (bytes : List Byte) (hb : bytes ≠ []) (l : Nat → Level) (o : Observer)
    (hc : o.csn = !cfg.csActiveLevel) (hs : o.sck = false) :
    (frameEvents cfg bytes l).foldl (Observer.see cfg) o =
      { o with mosi := (bytes.getLastD 0).getLsbD 0, bits := [], frames := o.frames ++ [bytes] } := by
  have hopen : Observer.see cfg o (.drive .csn cfg.csActiveLevel) = { o with csn := cfg.csActiveLevel, bits := [] } := by
    simp only [Observer.see, hc]
    cases cfg.csActiveLevel <;> rfl
  have hdelay (o : Observer) : Observer.see cfg o (.delay .cs) = o := rfl
  simp only [frameEvents, List.foldl_append, List.foldl_cons, List.foldl_nil, hopen, hdelay]
  rw [see_exchange cfg bytes hb l { o with csn := cfg.csActiveLevel, bits := [] } rfl hs]
  simp only [Observer.see, List.nil_append, bytesOfBits_flatMap, hc]
  cases cfg.csActiveLevel <;> rfl

end Sys2Proof.Machine
end

