-- ==== Sys2Proof/Laws/PerInstr.lean ====
section
/-! SUPPORT. Family TableRow: the encoder against the rows of the opcode table, one lemma per constructor. -/

namespace Sys2Proof.Laws.TableRow

/-- `(match, mask)` of an instruction's row in spec/opcode_table.json; a wire row's word is the first byte of its frame. -/
def row : Instr → Nat × Nat
  | .opRdsr => (0x05, 0xFF)
  | .opWren => (0x06, 0xFF)
  | .opWrdis => (0x04, 0xFF)
  | .opWrsr _ => (0x01, 0xFF)
  | .opErasePage _ => (0x52, 0xFF)
  | .opEraseAll => (0x62, 0xFF)
  | .opProgram _ _ => (0x02, 0xFF)
  | .opRead _ _ => (0x03, 0xFF)
  | .setOe _ => (0x00000001, 0xFFFFFFEF)
  | .setCs _ => (0x00000002, 0xFFFFFFEF)
  | .xfer _ => (0x00000003, 0xFFFF00FF)
  | .selectRegion _ => (0x00000004, 0xFFFFFFEF)
  | .readStatus => (0x00000005, 0xFFFFFFFF)
  | .writeDisable => (0x00000006, 0xFFFFFFFF)
  | .read _ _ => (0x00000007, 0x0000FFFF)
  | .program _ _ => (0x00000008, 0x0000FFFF)
  | .waitReady => (0x00000009, 0xFFFFFFFF)
  | .writeEnable => (0x0000000A, 0xFFFFFFFF)
  | .eraseAll => (0x0000000B, 0xFFFFFFFF)
  | .erasePage _ => (0x0000000C, 0xFFFF00FF)
  | .programChunked _ _ => (0x0000000D, 0x0000FFFF)

/-- What the encoder makes of `i` under the default configuration matches `i`'s row of the table. -/
def Statement (i : Instr) : Prop :=
  match encode Config.default i with
  | .frame bytes => ∃ ps, bytes = BitVec.ofNat 8 (row i).1 :: ps
  | .request r => r.header &&& BitVec.ofNat 32 (row i).2 = BitVec.ofNat 32 (row i).1

/-- A header with an address operand, under the mask of its row. -/
theorem addr_header (c : BitVec 4) (a : Addr) :
    mkHeader c false 0 a &&& BitVec.ofNat 32 0x0000FFFF = c.setWidth 32 := by
  apply BitVec.eq_of_getLsbD_eq
  intro i hi
  rw [BitVec.getLsbD_and, mkHeader_getLsbD, BitVec.getLsbD_setWidth, BitVec.getLsbD_ofNat]
  by_cases h4 : i < 4
  · have : (65535 : Nat).testBit i = true := by interval_cases i <;> decide
    simp [h4, hi, this]
  · have hc : c.getLsbD i = false := BitVec.getLsbD_of_ge c i (by omega)
    by_cases h16 : i < 16
    · simp [h4, h16, hc]
    · have : (65535 : Nat).testBit i = false := Nat.testBit_lt_two_pow (lt_of_lt_of_le (by decide : 65535 < 2 ^ 16)
        (Nat.pow_le_pow_right (by decide) (by omega)))
      simp [this, hc]

/-- The statement on a request row, spelt out. -/
theorem of_header {i : Instr} {r : Request} (h : encode Config.default i = .request r)
    (hr : r.header &&& BitVec.ofNat 32 (row i).2 = BitVec.ofNat 32 (row i).1) : Statement i := by
  unfold Statement
  rw [h]
  exact hr

theorem opRdsr : Statement .opRdsr := ⟨_, rfl⟩
theorem opWren : Statement .opWren := ⟨_, rfl⟩
theorem opWrdis : Statement .opWrdis := ⟨_, rfl⟩
theorem opWrsr (flag : Byte) : Statement (.opWrsr flag) := ⟨_, rfl⟩
theorem opErasePage (page : Byte) : Statement (.opErasePage page) := ⟨_, rfl⟩
theorem opEraseAll : Statement .opEraseAll := ⟨_, rfl⟩
theorem opProgram (addr : Addr) (data : List Byte) : Statement (.opProgram addr data) := ⟨_, rfl⟩
theorem opRead (addr : Addr) (count : Nat) : Statement (.opRead addr count) := ⟨_, rfl⟩
theorem setOe (en : Bool) : Statement (.setOe en) := of_header rfl (by cases en <;> decide)
theorem setCs (a : Bool) : Statement (.setCs a) := of_header rfl (by cases a <;> decide)
theorem xfer (out : Byte) : Statement (.xfer out) := of_header rfl (by revert out; decide)
theorem selectRegion (info : Bool) : Statement (.selectRegion info) := of_header rfl (by cases info <;> decide)
theorem readStatus : Statement .readStatus := of_header rfl (by decide)
theorem writeDisable : Statement .writeDisable := of_header rfl (by decide)
theorem read (addr : Addr) (count : Nat) : Statement (.read addr count) := of_header rfl (addr_header 0x7 addr)
theorem program (addr : Addr) (data : List Byte) : Statement (.program addr data) := of_header rfl (addr_header 0x8 addr)
theorem waitReady : Statement .waitReady := of_header rfl (by decide)
theorem writeEnable : Statement .writeEnable := of_header rfl (by decide)
theorem eraseAll : Statement .eraseAll := of_header rfl (by decide)
theorem erasePage (page : Byte) : Statement (.erasePage page) := of_header rfl (by revert page; decide)
theorem programChunked (addr : Addr) (data : List Byte) : Statement (.programChunked addr data) := of_header rfl (addr_header 0xD addr)

end Sys2Proof.Laws.TableRow
end

