-- ==== Sys2Proof/Tests/Slice0.lean ====
section
/-! SUPPORT. Tests: ill-formed terms the checks refuse, words and frames written out from the spec's encodings, one-step vectors of
spec/95_test_vectors.md (named in the docstrings), and for each obligation with hypotheses a state that meets them. -/

namespace Sys2Proof.Tests

set_option Elab.async false

open Sys2Proof.Machine

/-! ### Helpers -/

/-- MISO levels that make these bytes, the most significant bit first (R80). -/
def miso (received : List Byte) : List Level := received.flatMap wireBits

/-- A block with the bus acquired, between frames, about to receive these bytes. -/
def ready (received : List Byte) : State := { State.reset with oe := true, csnQ := true, misoIn := miso received }

/-- The same, with a confirmed write-enable before it. -/
def armed (received : List Byte) : State := { ready received with weArmed := true, lastRdyn := false }

/-- The same as `ready`, with a request presented. -/
def asked (header : Header) (received : List Byte) : State := { ready received with hostQueue := [.present { header := header }] }

/-- The same as `ready`, with at most n status reads in a wait and chunks of one byte. -/
def bounded (n : Nat) (received : List Byte) : State :=
  { ready received with cfg := { Config.default with pollLimit := some n, chunkSize := 1 } }

/-- After a fault. -/
def faulted : State := { ready [] with fault := some .handshakeFailure }

/-- With a chip-select scope open. -/
def opened : State := { ready [] with csnQ := false, csAsserted := true }

/-- A field of the next state. -/
def get {α : Type} (f : State → α) : Host.Outcome State Fault Refusal → Option α
  | .next t => some (f t)
  | .fault _ => none
  | .refused _ => none

/-- The frames a device reads from the events of an outcome, the trace being empty before. -/
def sent : Host.Outcome State Fault Refusal → Option (List (List Byte)) := get fun t => framesSeen t.cfg false false true t.trace

/-- The responses of an outcome. -/
def answers : Host.Outcome State Fault Refusal → Option (List Response) := get State.responses

/-! ### Well-formedness -/

theorem test_wf_default : Config.default.wf = true := by decide

/-- R56: the eight opcode values are pairwise distinct. -/
theorem test_wf_refuses_equal_opcodes : Config.wf { Config.default with opRead := 0x02 } = false := by decide

/-- R6. -/
theorem test_wf_refuses_chunks_of_no_bytes : Config.wf { Config.default with chunkSize := 0 } = false := by decide

/-- R6, R98. -/
theorem test_wf_refuses_a_bound_of_no_polls : Config.wf { Config.default with pollLimit := some 0 } = false := by decide

/-- R6. -/
theorem test_wf_refuses_other_word_widths : Config.wf { Config.default with wordBits := 7 } = false := by decide

/-- R6. -/
theorem test_wf_refuses_other_address_widths : Config.wf { Config.default with addrBits := 24 } = false := by decide

/-- R61: the flag byte is 0x00 or `INFEN_FLAG`. -/
theorem test_wf_refuses_other_wrsr_flags : Instr.wf Config.default (.opWrsr 0x01) = false := by decide

theorem test_wf_admits_the_info_flag : Instr.wf Config.default (.opWrsr 0x08) = true := by decide

/-! ### Decoding: words and frames written out from R54, R57, R58, R64, R65 -/

/-- P1: 0x00000011. -/
theorem test_decode_setOe : decodeTableWord 32 0b00000000000000000000000000010001 = some (.setOe true) := by decide

/-- P6: 0x00000012. -/
theorem test_decode_setCs : decodeTableWord 32 0b00000000000000000000000000010010 = some (.setCs true) := by decide

/-- P6: 0x00005A03. -/
theorem test_decode_xfer : decodeTableWord 32 0b00000000000000000101101000000011 = some (.xfer 0x5A) := by decide

/-- P2: 0x00000014. -/
theorem test_decode_selectRegion : decodeTableWord 32 0b00000000000000000000000000010100 = some (.selectRegion true) := by decide

/-- P1: 0x00000005. -/
theorem test_decode_readStatus : decodeTableWord 32 0b00000000000000000000000000000101 = some .readStatus := by decide

theorem test_decode_writeDisable : decodeTableWord 32 0b00000000000000000000000000000110 = some .writeDisable := by decide

/-- P3: 0x79F40007. -/
theorem test_decode_read : decodeTableWord 32 0b01111001111101000000000000000111 = some (.read 0x79F4 0) := by decide

/-- P2: 0x000B0008. -/
theorem test_decode_program : decodeTableWord 32 0b00000000000010110000000000001000 = some (.program 0x000B []) := by decide

/-- P2: 0x00000009. -/
theorem test_decode_waitReady : decodeTableWord 32 0b00000000000000000000000000001001 = some .waitReady := by decide

/-- P2: 0x0000000A. -/
theorem test_decode_writeEnable : decodeTableWord 32 0b00000000000000000000000000001010 = some .writeEnable := by decide

/-- P4: 0x0000000B. -/
theorem test_decode_eraseAll : decodeTableWord 32 0b00000000000000000000000000001011 = some .eraseAll := by decide

theorem test_decode_erasePage : decodeTableWord 32 0b00000000000000000000010100001100 = some (.erasePage 0x05) := by decide

/-- P3: 0x7800000D. -/
theorem test_decode_programChunked : decodeTableWord 32 0b01111000000000000000000000001101 = some (.programChunked 0x7800 []) := by decide

/-- The table gives these rows 16 bits; the address bits above are 0. -/
theorem test_decode_rows_of_16_bits :
    (decodeTableWord 16 0b0000000000000111, decodeTableWord 16 0b0000000000001000, decodeTableWord 16 0b0000000000001101) =
      (some (.read 0 0), some (.program 0 []), some (.programChunked 0 [])) := by
  decide

/-- P2: the count travels beside the header. -/
theorem test_decode_read_count : decodeRequest { header := 0x000B0007, count := 5 } = .ok (.read 0x000B 5) := by decide

/-- P2. -/
theorem test_decode_program_data :
    decodeRequest { header := 0x000B0008, data := [0xAA, 0xBB] } = .ok (.program 0x000B [0xAA, 0xBB]) := by
  decide

/-- V-F11. -/
theorem test_decode_unknown_code : decodeRequest { header := 0x0000000E } = .error .unknownRequest := by decide

/-- V-F12. -/
theorem test_decode_reserved_bit : decodeRequest { header := 0x00000025 } = .error .malformedRequest := by decide

/-- V-F13. -/
theorem test_decode_unused_flag : decodeRequest { header := 0x00000015 } = .error .malformedRequest := by decide

/-- V-F3. -/
theorem test_frame_rdsr : decodeFrame Config.default [0b00000101, 0b00000000] = .ok .opRdsr := by decide

/-- P2. -/
theorem test_frame_wren : decodeFrame Config.default [0b00000110] = .ok .opWren := by decide

/-- V-F4. -/
theorem test_frame_wrdis : decodeFrame Config.default [0b00000100] = .ok .opWrdis := by decide

/-- V-F1. -/
theorem test_frame_wrsr : decodeFrame Config.default [0b00000001, 0b00001000] = .ok (.opWrsr 0x08) := by decide

/-- V-R3. -/
theorem test_frame_erasePage : decodeFrame Config.default [0b01010010, 0b00000101] = .ok (.opErasePage 0x05) := by decide

/-- V-R1. -/
theorem test_frame_eraseAll : decodeFrame Config.default [0b01100010] = .ok .opEraseAll := by decide

/-- V-F8. -/
theorem test_frame_program :
    decodeFrame Config.default [0b00000010, 0b10101011, 0b11001101, 0b00010001, 0b00100010] = .ok (.opProgram 0xABCD [0x11, 0x22]) := by
  decide

/-- V-F5. -/
theorem test_frame_read :
    decodeFrame Config.default [0b00000011, 0b00010010, 0b00110100, 0b00000000, 0b00000000, 0b00000000] = .ok (.opRead 0x1234 3) := by
  decide

/-- R62. -/
theorem test_frame_unknown_opcode : decodeFrame Config.default [0x9F] = .error .unknownOpcode := by decide

/-- R53, R58: RDSR has two bytes. -/
theorem test_frame_wrong_format : decodeFrame Config.default [0x05] = .error .malformedFrame := by decide

/-- R56: the opcodes are configuration. -/
theorem test_frame_other_profile : decodeFrame { Config.default with opWren := 0x50 } [0x50] = .ok .opWren := by decide

/-- R67. -/
theorem test_asm_read : Instr.asm (.read 0x1234 3) = some "READ 4660, 3" := by decide +kernel

/-! ### Transceiver requests -/

/-- V-O1. -/
theorem test_setOe_acquires :
    get (fun t => (t.trace, t.oe, t.csAsserted)) (exec (.setOe true) State.reset) =
      some ([.configure .sck .output (some false), .configure .mosi .output (some false), .configure .csn .output (some true),
        .configure .miso .input none], true, false) := by
  decide

/-- V-O4. -/
theorem test_setOe_closes_an_open_scope :
    get (fun t => (t.csnQ, t.csAsserted)) (exec (.setOe true) opened) = some (true, false) := by
  decide

/-- V-S1. -/
theorem test_setCs_asserts :
    get (fun t => (t.trace, t.csAsserted)) (exec (.setCs true) (ready [])) = some ([.drive .csn false, .delay .cs], true) := by
  decide

/-- V-S3. -/
theorem test_setCs_needs_the_bus : answers (exec (.setCs true) State.reset) = some [.refused .busNotAcquired] := by decide

/-- V-X3. -/
theorem test_xfer_receives :
    get (fun t => (t.responses, t.shiftIn, t.bitCnt)) (exec (.xfer 0xA5) (ready [0x3C])) = some ([.byte 0x3C], 0x3C, 8) := by
  decide +kernel

/-- V-X3, event by event. -/
theorem test_xfer_first_bit :
    get (fun t => t.trace.take 8) (exec (.xfer 0xA5) (ready [0x3C])) =
      some [.drive .sck false, .drive .mosi true, .delay .bitSetup, .sample .miso false, .drive .sck true, .delay .bitHold,
        .drive .sck false, .drive .sck false] := by
  decide +kernel

/-! ### Single-frame requests -/

/-- V-F1. -/
theorem test_selectRegion :
    get (fun t => (framesSeen t.cfg false false true t.trace, t.trace.length)) (exec (.selectRegion true) (ready [0, 0])) = some ([[0x01, 0x08]], 116) := by
  decide +kernel

/-- V-G3. -/
theorem test_selectRegion_clears_weArmed : get State.weArmed (exec (.selectRegion false) (armed [0, 0])) = some false := by decide +kernel

/-- V-F3. -/
theorem test_readStatus :
    get (fun t => (t.responses, framesSeen t.cfg false false true t.trace)) (exec .readStatus (ready [0x00, 0x28])) =
      some ([.status 0x28], [[0x05, 0x00]]) := by
  decide +kernel

/-- V-F10. -/
theorem test_readStatus_open_scope : answers (exec .readStatus opened) = some [.refused .frameOpen] := by decide

/-- V-F4. -/
theorem test_writeDisable :
    get (fun t => (framesSeen t.cfg false false true t.trace, t.trace.length)) (exec .writeDisable (ready [0])) = some ([[0x04]], 60) := by
  decide +kernel

/-- V-F5, with one byte. -/
theorem test_read_data : answers (exec (.read 0x1234 1) (ready [0x55, 0xAA, 0x55, 0x10])) = some [.bytes [0x10]] := by decide +kernel

/-- V-F6, at another address. -/
theorem test_read_nothing :
    get (fun t => (t.responses, framesSeen t.cfg false false true t.trace)) (exec (.read 0x1234 0) (ready [0, 0, 0])) =
      some ([.bytes []], [[0x03, 0x12, 0x34]]) := by
  decide +kernel

/-- V-F9 at another address, V-G2. -/
theorem test_program_without_write_enable :
    get (fun t => (t.obligationViolated, framesSeen t.cfg false false true t.trace)) (exec (.program 0xABCD []) (ready [0, 0, 0])) = some (true, [[0x02, 0xAB, 0xCD]]) := by
  decide +kernel

/-- V-G1, V-G7. -/
theorem test_program_after_write_enable :
    get (fun t => (t.obligationViolated, t.weArmed)) (exec (.program 0x0000 []) (armed [0, 0, 0])) = some (false, false) := by
  decide +kernel

/-! ### Sequenced requests -/

/-- V-W4. -/
theorem test_waitReady : get (fun t => (t.responses, t.polls)) (exec .waitReady (ready [0, 0xEF])) = some ([.done], 1) := by decide +kernel

/-- V-W8. -/
theorem test_waitReady_exhausted :
    get (fun t => (t.fault, t.polls)) (exec .waitReady (bounded 1 [0, 0x10])) = some (some .deviceUnresponsive, 1) := by
  decide +kernel

/-- V-W7, its second poll. -/
theorem test_wait_ready_beats_the_limit :
    answers (step { bounded 2 [0, 0x00] with seq := .poll .waitReady, polls := 1 }) = some [.done] := by
  decide +kernel

/-- V-E3. -/
theorem test_writeEnable_confirmed :
    get (fun t => (t.responses, t.weArmed, t.lastRdyn)) (exec .writeEnable (ready [0, 0, 0x30])) = some ([.done], true, true) := by
  decide +kernel

/-- V-E7. -/
theorem test_writeEnable_not_confirmed :
    get (fun t => (t.responses, t.weArmed, t.fault)) (exec .writeEnable (ready [0, 0, 0xDF])) =
      some ([.faulted .handshakeFailure], false, some .handshakeFailure) := by
  decide +kernel

/-- V-R4. -/
theorem test_eraseAll :
    get (fun t => (t.responses, t.polls, t.obligationViolated)) (exec .eraseAll (ready [0, 0, 0x00])) = some ([.done], 1, true) := by
  decide +kernel

/-- V-R3, its first poll. -/
theorem test_erasePage :
    get (fun t => (t.seq, t.polls, t.responses)) (exec (.erasePage 0x05) (armed [0, 0, 0, 0x18])) = some (.poll (.erase (.page 0x05)), 1, []) := by
  decide +kernel

/-- V-C1, the row that passes 0xFFFF. -/
theorem test_programChunked_out_of_range :
    answers (exec (.programChunked 0xFFFF [0x11, 0x22]) (ready [])) = some [.refused .argumentRange] := by
  decide +kernel

/-- V-C2 at its first chunk. -/
theorem test_programChunked_unconfirmed :
    get (fun t => (t.responses, framesSeen t.cfg false false true t.trace)) (exec (.programChunked 0x0000 [0xD0]) (ready [0, 0, 0, 0, 0])) =
      some ([.faulted .handshakeFailure], [[0x05, 0x00], [0x06], [0x05, 0x00]]) := by
  decide +kernel

/-- V-C1. -/
theorem test_chunk_addresses :
    (List.range 3).map (fun k => (chunkAddr Config.default 0x7800 k, (chunkData Config.default (List.replicate 600 0) k).length)) =
      [(0x7800, 250), (0x78FA, 250), (0x79F4, 100)] := by
  decide +kernel

/-- V-C1. -/
theorem test_chunk_counts :
    [0, 1, 249, 250, 251, 500, 501, 600, 65536].map (chunkCount Config.default) = [0, 1, 1, 1, 2, 2, 3, 3, 263] := by
  decide

/-! ### Wire commands at their positions -/

/-- R58, R87. -/
theorem test_opRdsr :
    answers (exec .opRdsr { ready [0, 0x28] with seq := .command [0x05, 0x00] }) = some [.status 0x28] := by
  decide +kernel

/-- R58. -/
theorem test_opWren : sent (exec .opWren { ready [0] with seq := .command [0x06] }) = some [[0x06]] := by decide +kernel

/-- R99, V-E1. -/
theorem test_opWren_goes_on : get State.weArmed (exec .opWren { ready [0, 0, 0x20] with seq := .enable }) = some true := by decide +kernel

/-- R58, V-F4. -/
theorem test_opWrdis : sent (exec .opWrdis { ready [0] with seq := .command [0x04] }) = some [[0x04]] := by decide +kernel

/-- R58, V-F1. -/
theorem test_opWrsr :
    sent (exec (.opWrsr 0x08) { ready [0, 0] with seq := .command [0x01, 0x08] }) = some [[0x01, 0x08]] := by
  decide +kernel

/-- R58, V-R3. -/
theorem test_opErasePage :
    sent (exec (.opErasePage 0x05) { ready [0, 0] with seq := .command [0x52, 0x05] }) = some [[0x52, 0x05]] := by
  decide +kernel

/-- R58, V-R1. -/
theorem test_opEraseAll : sent (exec .opEraseAll { ready [0] with seq := .command [0x62] }) = some [[0x62]] := by decide +kernel

/-- R58, V-F9 at another address. -/
theorem test_opProgram :
    sent (exec (.opProgram 0xABCD []) { ready [0, 0, 0] with seq := .command [0x02, 0xAB, 0xCD] }) = some [[0x02, 0xAB, 0xCD]] := by
  decide +kernel

/-- R58, V-F6 at another address. -/
theorem test_opRead :
    sent (exec (.opRead 0x1234 0) { ready [0, 0, 0] with seq := .command [0x03, 0x12, 0x34] }) = some [[0x03, 0x12, 0x34]] := by
  decide +kernel

/-! ### Steps -/

/-- P1. -/
theorem test_step_takes_the_request :
    get (fun t => (t.hostQueue, t.responses)) (step (asked 0x00000011 [])) = some ([], [.done]) := by
  decide

/-- P4. -/
theorem test_step_refuses_after_a_fault :
    answers (step { faulted with hostQueue := [.present { header := 0x00000001 }] }) = some [.refused .sessionAborted] := by
  decide

/-- R133. -/
theorem test_step_resets :
    get (fun t => (t.fault, t.oe, t.lastRdyn)) (step { faulted with hostQueue := [.reset] }) = some (none, false, true) := by
  decide

/-- R14, V-S1. -/
theorem test_step_runs_the_request_seq_names :
    get (fun t => (t.trace, t.seq, t.responses)) (step { ready [] with seq := .setCs true }) = some ([.drive .csn false, .delay .cs], .idle, [.done]) := by
  decide

theorem test_fetch_of_a_request_row : get State.responses (step (State.reset.withFetchWord 32 0x00000011)) = some [.done] := by decide

/-- READ, PROGRAM, PROGRAM_CHUNKED; R117: after reset the bus is released. -/
theorem test_fetch_of_a_16_bit_row :
    [0x0007, 0x0008, 0x000D].map (fun w => get State.responses (step (State.reset.withFetchWord 16 w))) =
      [some [.refused .busNotAcquired], some [.refused .busNotAcquired], some [.refused .busNotAcquired]] := by
  decide

/-- R117: after reset the bus is released. -/
theorem test_fetch_of_a_wire_row :
    get State.responses (step (State.reset.withFetchWord 8 0x06)) = some [.refused .busNotAcquired] := by
  decide

/-! ### Witnesses: for each obligation with hypotheses, a state that meets them, clause by clause -/

theorem witness_EncodedInstructionsDecodeBack :
    Config.default.wf = true ∧ Instr.wf Config.default (.opWrsr 0x00) = true ∧ Instr.wf Config.default (.opRead 0xFFFF 2) = true := by
  decide +kernel

theorem witness_HeaderWordHasOneMeaning :
    decodeRequest { header := 0xFFFF000D } = .ok (.programChunked 0xFFFF []) ∧ decodeRequest { header := 0x00000001 } = .ok (.setOe false) := by
  decide +kernel

theorem witness_FrameHasOneMeaning : decodeFrame Config.default [0x03, 0xFF, 0xFF, 0x00] = .ok (.opRead 0xFFFF 1) := by decide +kernel

theorem witness_UnassignedCodesAreRefused :
    ∀ code ∈ [0x0, 0xE, 0xF], (asked (BitVec.ofNat 32 code) []).seq = .idle ∧ hdrCode (BitVec.ofNat 32 code) = code := by
  decide +kernel

theorem witness_MalformedHeadersAreRefused :
    (hdrCode 0x00000021 = 0x1 ∧ hdrReserved 0x00000021 ≠ 0) ∧ (hdrCode 0x0000008D = 0xD ∧ hdrReserved 0x0000008D ≠ 0) ∧
      (hdrCode 0x00000013 = 0x3 ∧ hdrFlag 0x00000013 = true) ∧ (hdrCode 0x0000010D = 0xD ∧ hdrByte 0x0000010D ≠ 0) ∧
      (hdrCode 0x8000000C = 0xC ∧ hdrAddr 0x8000000C ≠ 0) := by
  decide +kernel

theorem witness_ResetStartsNewSession :
    (({ faulted with hostQueue := [.reset] } : State).seq = .idle) ∧
      get (fun t => (t.fault, t.obligationViolated)) (exec .readStatus { faulted with obligationViolated := true }) =
        some (some .handshakeFailure, true) ∧
      ¬ State.ResetNext { asked 0x00000005 [] with fault := some .handshakeFailure, obligationViolated := true } ∧
      get State.fault (step { asked 0x00000005 [] with fault := some .handshakeFailure, obligationViolated := true }) =
        some (some .handshakeFailure) ∧
      State.reset.seq = .idle ∧ State.reset.hostQueue = [] := by
  decide +kernel

theorem witness_StepRunsDecodedInstruction :
    (asked 0x00000005 []).seq = .idle ∧ decodeRequest { header := 0x00000005 } = .ok .readStatus ∧
      pendingFrame Config.default (.poll .waitReady) = some [0x05, 0x00] ∧ decodeFrame Config.default [0x05, 0x00] = .ok .opRdsr ∧
      pendingRequest (.xfer 0xA5) = some (.xfer 0xA5) := by
  decide +kernel

theorem witness_BlockAlwaysAnswers : State.reset.cfg.wf = true ∧ State.reset.seq = .idle := by decide +kernel

theorem witness_FaultedBlockRefusesEverything :
    Instr.isWire (.setOe false) = false ∧ faulted.fault ≠ none ∧ get State.fault (step { faulted with hostQueue := [.present { header := 0x00000011 }] }) =
      some (some .handshakeFailure) ∧ ¬ State.ResetNext { faulted with hostQueue := [.present { header := 0x00000011 }] } := by
  decide +kernel

theorem witness_ReleasedBusRefusesAllButSetOe :
    Instr.isWire (.xfer 0x12) = false ∧ State.reset.fault = none ∧ State.reset.oe = false ∧ Instr.xfer 0x12 ≠ .setOe true ∧ Instr.xfer 0x12 ≠ .setOe false := by
  decide +kernel

theorem witness_OpenScopeRefusesFrames :
    Instr.isWire .readStatus = false ∧ opened.fault = none ∧ opened.oe = true ∧ opened.csAsserted = true ∧ (∀ en, Instr.readStatus ≠ .setOe en) ∧
      (∀ a, Instr.readStatus ≠ .setCs a) ∧ ∀ out, Instr.readStatus ≠ .xfer out := by
  exact ⟨rfl, rfl, rfl, rfl, by decide, by decide, fun _ => by simp⟩

theorem witness_WireCommandsAreChecked : Instr.isWire .opWren = true ∧ faulted.checkRefusal = some .sessionAborted := by decide +kernel

theorem witness_SetOeSwitchesTheBus : faulted.fault ≠ none ∧ State.reset.fault = none ∧ opened.fault = none := by decide +kernel

theorem witness_SetCsWritesChipSelect :
    faulted.fault ≠ none ∧ (State.reset.fault = none ∧ State.reset.oe = false) ∧ (opened.fault = none ∧ opened.oe = true) := by
  decide +kernel

theorem witness_XferExchangesOneByte :
    faulted.fault ≠ none ∧ (State.reset.fault = none ∧ State.reset.oe = false) ∧ (opened.fault = none ∧ opened.oe = true) := by
  decide +kernel

theorem witness_XferMakesEightClockPulses : opened.fault = none ∧ opened.oe = true ∧ opened.sckQ = false := by decide +kernel

/-- V-X4. -/
theorem witness_LoopbackReturnsTheByte :
    (ready [0x5A]).fault = none ∧ (ready [0x5A]).oe = true ∧ get (fun t => samplesEchoMosi false t.trace) (exec (.xfer 0x5A) (ready [0x5A])) = some true := by
  decide +kernel

/-- The two cases of SelectRegionSendsItsFrame, ReadStatusReturnsTheStatus, WriteDisableSendsItsFrame, ReadReturnsTheBytes, ProgramSendsItsFrame,
WaitReadyPollsOnce, WriteEnableConfirmsOrFaults, EraseAllSendsAndWaits and ErasePageSendsAndWaits. -/
theorem witness_frame_requests :
    (ready []).Ready ∧ faulted.checkRefusal = some .sessionAborted ∧ State.reset.checkRefusal = some .busNotAcquired ∧
      opened.checkRefusal = some .frameOpen := by
  decide +kernel

theorem witness_ChunkedProgramEdges :
    opened.checkRefusal = some .frameOpen ∧ ((ready []).Ready ∧ (0xFFFF : Addr).toNat + [0x11, (0x22 : Byte)].length > 0x10000) ∧
      (ready []).Ready ∧ (ready []).cfg.wf = true := by
  decide +kernel

theorem witness_DeviceReadsTheCommandFrame :
    singleFrame Config.default (.read 0xFFFF 0) = some [0x03, 0xFF, 0xFF] ∧ (ready []).Ready ∧ (ready []).PinsInv := by
  exact ⟨by decide, by decide, ⟨by decide, by decide, by decide, by decide⟩⟩

theorem witness_WireCommandsSendTheirFrames :
    (ready []).Ready ∧ State.Ready { ready [] with seq := .command [0x06] } ∧
      ({ ready [] with seq := .command [0x06] } : State).seq = .command [0x06] := by
  decide +kernel

theorem witness_WireCommandsGoOnAsTheirRequests :
    ∀ q ∈ [Seq.enable, .erase .all, .erase (.page 0xFF), .poll .waitReady],
      State.Ready { ready [] with seq := q } ∧ ({ ready [] with seq := q } : State).polls = 0 := by
  decide +kernel

theorem witness_BusyWaitStepPollsOnceMore :
    (ready []).cfg.wf = true ∧ State.Ready { ready [] with seq := .poll (.erase .all) } ∧ ({ ready [] with seq := .poll (.erase .all) } : State).seq = .poll (.erase .all) ∧
      State.Ready { bounded 1 [0, 0x10] with seq := .chunk 0 .wait 0xFFFF [0x11] } ∧ busy ((bounded 1 [0, 0x10]).byteIn 1) = true := by
  decide +kernel

/-- V-W2, with one busy poll. -/
theorem witness_WaitEndsAtTheFirstReadyPoll :
    (asked 0x00000009 [0, 0x10, 0, 0x00]).cfg.wf = true ∧ (asked 0x00000009 [0, 0x10, 0, 0x00]).Ready ∧
      (asked 0x00000009 [0, 0x10, 0, 0x00]).seq = .idle ∧ decodeRequest { header := 0x00000009 } = .ok .waitReady ∧
      (∀ j, j < 1 → busy ((asked 0x00000009 [0, 0x10, 0, 0x00]).byteIn (2 * j + 1)) = true) ∧
      busy ((asked 0x00000009 [0, 0x10, 0, 0x00]).byteIn (2 * 1 + 1)) = false ∧
      (asked 0x00000009 [0, 0x10, 0, 0x00]).cfg.pollLimit = none := by
  decide +kernel

/-- V-W6, the first clause; the request is put in front of the host's queue as in `asked`, which no other hypothesis reads. -/
theorem witness_BoundedWaitFaultsAfterItsLimit :
    (bounded 2 [0, 0x10, 0, 0x10]).cfg.wf = true ∧ (bounded 2 [0, 0x10, 0, 0x10]).Ready ∧
      (bounded 2 [0, 0x10, 0, 0x10]).cfg.pollLimit = some 2 ∧
      (∀ j, j < 2 → busy ((bounded 2 [0, 0x10, 0, 0x10]).byteIn (2 * j + 1)) = true) := by
  decide +kernel

/-- The second clause. -/
theorem witness_BoundedWaitFaultsAfterItsLimit_chunk :
    State.Ready { bounded 2 [0, 0x10] with seq := .chunk 0 .wait 0 [0x11], polls := 1 } ∧
      State.PinsInv { bounded 2 [0, 0x10] with seq := .chunk 0 .wait 0 [0x11], polls := 1 } ∧ (Seq.chunk 0 .wait 0 [0x11]).isWait = true ∧
      (bounded 2 [0, 0x10]).cfg.pollLimit = some 2 ∧ 1 + 1 = 2 ∧
      ∀ j, j < 1 → busy ((bounded 2 [0, 0x10]).byteIn (2 * j + 1)) = true := by
  exact ⟨by decide, ⟨by decide, by decide, by decide, by decide⟩, by decide, by decide, by decide, by decide⟩

theorem witness_UnboundedWaitNeverResponds :
    State.Ready { ready [0, 0x10] with seq := .chunk 0 .wait 0 [0x11] } ∧
      State.PinsInv { ready [0, 0x10] with seq := .chunk 0 .wait 0 [0x11] } ∧ (Seq.chunk 0 .wait 0 [0x11]).isWait = true ∧
      (ready [0, 0x10]).cfg.pollLimit = none ∧ ∀ j, j < 1 → busy ((ready [0, 0x10]).byteIn (2 * j + 1)) = true := by
  exact ⟨by decide, ⟨by decide, by decide, by decide, by decide⟩, by decide, by decide, by decide⟩

theorem witness_ChunksPartitionTheData :
    Config.default.wf = true ∧ 2 < chunkCount Config.default 600 ∧ (0x7800 : Addr).toNat + 600 ≤ 0x10000 := by
  decide +kernel

theorem witness_ChunkedProgramOnReadyDevice :
    (bounded 1 [0, 0, 0, 0, 0x20]).cfg.wf = true ∧ (bounded 1 [0, 0, 0, 0, 0x20]).Ready ∧ (0xFFFF : Addr).toNat + [(0x11 : Byte)].length ≤ 0x10000 ∧
      ∀ k, k < chunkCount (bounded 1 []).cfg 1 → busy ((bounded 1 [0, 0, 0, 0, 0x20]).byteIn (k * (1 + 8) + 1)) = false ∧
        wen ((bounded 1 [0, 0, 0, 0, 0x20]).byteIn (k * (1 + 8) + 4)) = true := by
  decide +kernel

theorem witness_ChunkedProgramStopsAtUnconfirmedChunk :
    (bounded 2 [0, 0, 0, 0, 0x20, 0, 0, 0, 0, 0, 0, 0, 0, 0]).cfg.wf = true ∧ (bounded 2 [0, 0, 0, 0, 0x20, 0, 0, 0, 0, 0, 0, 0, 0, 0]).Ready ∧ 1 < chunkCount (bounded 2 []).cfg 2 ∧
      busy ((bounded 2 [0, 0, 0, 0, 0x20, 0, 0, 0, 0, 0, 0, 0, 0, 0]).byteIn 1) = false ∧ wen ((bounded 2 [0, 0, 0, 0, 0x20, 0, 0, 0, 0, 0, 0, 0, 0, 0]).byteIn 4) = true ∧ busy ((bounded 2 [0, 0, 0, 0, 0x20, 0, 0, 0, 0, 0, 0, 0, 0, 0]).byteIn (1 * (1 + 8) + 1)) = false ∧
      wen ((bounded 2 [0, 0, 0, 0, 0x20, 0, 0, 0, 0, 0, 0, 0, 0, 0]).byteIn (1 * (1 + 8) + 4)) = false := by
  decide +kernel

theorem witness_ChunkedProgramWaitsAtBusyChunk :
    (bounded 2 [0, 0, 0, 0, 0x20, 0, 0, 0, 0, 0, 0x10, 0, 0, 0]).cfg.wf = true ∧ (bounded 2 [0, 0, 0, 0, 0x20, 0, 0, 0, 0, 0, 0x10, 0, 0, 0]).Ready ∧ 1 < chunkCount (bounded 2 []).cfg 2 ∧
      busy ((bounded 2 [0, 0, 0, 0, 0x20, 0, 0, 0, 0, 0, 0x10, 0, 0, 0]).byteIn 1) = false ∧ wen ((bounded 2 [0, 0, 0, 0, 0x20, 0, 0, 0, 0, 0, 0x10, 0, 0, 0]).byteIn 4) = true ∧ busy ((bounded 2 [0, 0, 0, 0, 0x20, 0, 0, 0, 0, 0, 0x10, 0, 0, 0]).byteIn (1 * (1 + 8) + 1)) = true := by
  decide +kernel

theorem witness_ChunkedProgramWaitsAtBusyChunk_exhausted :
    (bounded 1 [0, 0, 0, 0, 0x20, 0, 0, 0, 0, 0, 0x10, 0, 0, 0]).cfg.wf = true ∧ (bounded 1 [0, 0, 0, 0, 0x20, 0, 0, 0, 0, 0, 0x10, 0, 0, 0]).Ready ∧ 1 < chunkCount (bounded 1 []).cfg 2 ∧
      busy ((bounded 1 [0, 0, 0, 0, 0x20, 0, 0, 0, 0, 0, 0x10, 0, 0, 0]).byteIn 1) = false ∧ wen ((bounded 1 [0, 0, 0, 0, 0x20, 0, 0, 0, 0, 0, 0x10, 0, 0, 0]).byteIn 4) = true ∧ busy ((bounded 1 [0, 0, 0, 0, 0x20, 0, 0, 0, 0, 0, 0x10, 0, 0, 0]).byteIn (1 * (1 + 8) + 1)) = true ∧
      (bounded 1 []).cfg.pollLimit = some 1 := by
  decide +kernel

/-- The first clause: two chunks, Done. -/
theorem witness_ParkedChunkGoesOn :
    State.Ready ({ bounded 2 [0, 0, 0, 0, 0x20, 0, 0, 0, 0, 0, 0, 0, 0, 0x20] with seq := .chunk 1 .wait 0 [0x11, 0x22, 0x33] }) ∧ 1 + 2 = chunkCount (bounded 2 []).cfg 3 ∧
      (∀ k, k < 2 → busy ((bounded 2 [0, 0, 0, 0, 0x20, 0, 0, 0, 0, 0, 0, 0, 0, 0x20]).byteIn (k * (1 + 8) + 1)) = false ∧
        wen ((bounded 2 [0, 0, 0, 0, 0x20, 0, 0, 0, 0, 0, 0, 0, 0, 0x20]).byteIn (k * (1 + 8) + 4)) = true) ∧ 1 ≤ 2 := by
  decide +kernel

/-- The second clause: the parked chunk itself is not confirmed. -/
theorem witness_ParkedChunkGoesOn_unconfirmed :
    State.Ready ({ bounded 2 [0, 0, 0, 0, 0] with seq := .chunk 1 .wait 0 [0x11, 0x22, 0x33] }) ∧ 1 + 0 < chunkCount (bounded 2 []).cfg 3 ∧
      (∀ k, k < 0 → busy ((bounded 2 [0, 0, 0, 0, 0]).byteIn (k * (1 + 8) + 1)) = false ∧
        wen ((bounded 2 [0, 0, 0, 0, 0]).byteIn (k * (1 + 8) + 4)) = true) ∧ busy ((bounded 2 [0, 0, 0, 0, 0]).byteIn 1) = false ∧ wen ((bounded 2 [0, 0, 0, 0, 0]).byteIn 4) = false := by
  decide +kernel

/-- The third clause: the chunk after the parked one is busy. -/
theorem witness_ParkedChunkGoesOn_busy :
    State.Ready ({ bounded 2 [0, 0, 0, 0, 0x20, 0, 0, 0, 0, 0, 0x10] with seq := .chunk 1 .wait 0 [0x11, 0x22, 0x33] }) ∧ 1 + 1 < chunkCount (bounded 2 []).cfg 3 ∧
      (∀ k, k < 1 → busy ((bounded 2 [0, 0, 0, 0, 0x20, 0, 0, 0, 0, 0, 0x10]).byteIn (k * (1 + 8) + 1)) = false ∧
        wen ((bounded 2 [0, 0, 0, 0, 0x20, 0, 0, 0, 0, 0, 0x10]).byteIn (k * (1 + 8) + 4)) = true) ∧ busy ((bounded 2 [0, 0, 0, 0, 0x20, 0, 0, 0, 0, 0, 0x10]).byteIn (1 * (1 + 8) + 1)) = true := by
  decide +kernel

theorem witness_StepKeepsPinsInv :
    State.reset.PinsInv ∧ get State.responses (step (asked 0x00000011 [])) = some [.done] ∧ (asked 0x00000011 []).PinsInv := by
  exact ⟨⟨by decide, by decide, by decide, by decide⟩, by decide, ⟨by decide, by decide, by decide, by decide⟩⟩

theorem witness_StepKeepsSeqInv :
    get State.responses (step (asked 0x00000011 [])) = some [.done] ∧ (asked 0x00000011 []).SeqInv := by
  exact ⟨by decide, ⟨by decide, by decide, by decide, by decide⟩⟩

theorem witness_StepKeepsTraceInv :
    get State.responses (step { State.reset with hostQueue := [.present { header := 0x00000011 }] }) = some [.done] ∧ State.TraceInv { State.reset with hostQueue := [.present { header := 0x00000011 }] } := by
  exact ⟨by decide, ⟨by decide, by decide, by decide, by decide⟩⟩

theorem witness_ConfigurationIsImmutable : get State.cfg (step (asked 0x00000011 [])) = some Config.default := by decide +kernel

theorem witness_OnlySetOeWritesOe :
    get State.oe (exec (.setCs true) (ready [])) = some true ∧ ∀ en, Instr.setCs true ≠ .setOe en := by
  decide +kernel

theorem witness_OnlyTheEightOpcodesAreSent :
    (ready []).PinsInv ∧ get State.responses (exec .writeDisable (ready [0])) = some [.done] := by
  exact ⟨⟨by decide, by decide, by decide, by decide⟩, by decide +kernel⟩

theorem witness_StepAppendsToTheTrace :
    get (fun t => t.trace.length) (step (asked 0x00000012 [])) = some 2 ∧ ¬ (asked 0x00000012 []).ResetNext := by
  decide +kernel

theorem witness_OneResponsePerRequest :
    get State.responses (step (asked 0x00000012 [])) = some [.done] ∧ ¬ (asked 0x00000012 []).ResetNext ∧ (asked 0x00000012 []).hostQueue ≠ [] := by
  decide +kernel

theorem witness_RefusalsChangeNothing :
    get State.responses (step { opened with hostQueue := [.present { header := 0x00000005 }] }) = some ((opened).responses ++ [.refused .frameOpen]) := by
  decide +kernel

theorem witness_FaultEntryLeavesTheBusDriven :
    (asked 0x0000000A [0, 0, 0]).fault = none ∧ get State.fault (step (asked 0x0000000A [0, 0, 0])) = some (some .handshakeFailure) := by
  decide +kernel

end Sys2Proof.Tests
end

section
/-! PROOFS. Family 10_state.md: what every step keeps of the lines and the trace, how a step answers, and the reset state. The invariants rest on
one principle: a property that a chip-select write and a byte exchange keep while the bus is driven, and that looks at nothing but the
lines, is kept by every step (`LinesClosed.step_keeps`). -/

namespace Sys2Proof.Machine

/-! ### Properties of the lines -/

/-- `P` is kept by the two operations that move lines while the bus is driven, and does not look at the fault, the sequencer, the ghosts
or the host's side. -/
structure LinesClosed (P : State → Prop) : Prop where
  csWrite_keeps : ∀ a s, s.oe = true → P s → P (csWrite a s)
  afterByte_keeps : ∀ out s, s.oe = true → P s → P (s.afterByte out)
  offLines_keeps : ∀ s fault polls seq weArmed lastRdyn obligationViolated responses hostQueue, P s →
    P { s with
      fault := fault, polls := polls, seq := seq, weArmed := weArmed, lastRdyn := lastRdyn
      obligationViolated := obligationViolated, responses := responses, hostQueue := hostQueue }

namespace LinesClosed

variable {P : State → Prop}

theorem exchange_keeps (hl : LinesClosed P) (bytes : List Byte) (s : State) (hoe : s.oe = true) (hs : P s) :
    (exchange bytes s).2.oe = true ∧ P (exchange bytes s).2 := by
  induction bytes generalizing s with
  | nil => exact ⟨hoe, hs⟩
  | cons b bs ih =>
    simp only [exchange, xferByte_eq]
    exact ih (s.afterByte b) hoe (hl.afterByte_keeps b s hoe hs)

theorem frame_keeps (hl : LinesClosed P) (bytes : List Byte) (s : State) (hoe : s.oe = true) (hs : P s) :
    (frame bytes s).2.oe = true ∧ P (frame bytes s).2 := by
  obtain ⟨hoe', hx⟩ := hl.exchange_keeps bytes (csWrite true s) hoe (hl.csWrite_keeps true s hoe hs)
  exact ⟨hoe', hl.csWrite_keeps false _ hoe' hx⟩

theorem sendCommand_keeps (hl : LinesClosed P) (c : Command) (bytes : List Byte) (s : State) (hoe : s.oe = true) (hs : P s) :
    (sendCommand c bytes s).2.oe = true ∧ P (sendCommand c bytes s).2 := by
  simp only [sendCommand, ghostBefore_eq, ghostAfter_eq]
  obtain ⟨hoe', hf⟩ := hl.frame_keeps bytes
    { s with obligationViolated := s.obligationViolated || (needsWriteEnable c && (!s.weArmed || s.lastRdyn)) } hoe
    (hl.offLines_keeps s _ _ _ _ _ _ _ _ hs)
  exact ⟨hoe', hl.offLines_keeps _ _ _ _ _ _ _ _ _ hf⟩

/-- A property of the lines is kept all along a request that sends frames, which it does only on a driven bus. -/
theorem seqClosed (hl : LinesClosed P) : SeqClosed (fun s => s.oe = true ∧ P s) P where
  send c _ s _ h := hl.sendCommand_keeps c _ s h.1 h.2
  seq _ s h := ⟨h.1, hl.offLines_keeps s _ _ _ _ _ _ _ _ h.2⟩
  polls _ s h := ⟨h.1, hl.offLines_keeps s _ _ _ _ _ _ _ _ h.2⟩
  arm s h := ⟨h.1, hl.offLines_keeps s _ _ _ _ _ _ _ _ h.2⟩
  respond _ s _ h := hl.offLines_keeps s _ _ _ _ _ _ _ _ h.2
  fault _ s h _ _ := hl.offLines_keeps s _ _ _ _ _ _ _ _ h.2
  park _ h _ := h.2

/-- A property of the lines is kept by an instruction, if SET_OE keeps it too. -/
theorem exec_keeps (hl : LinesClosed P) {i : Instr} {s t : State} (h : exec i s = .next t) (hs : P s)
    (hoe : ∀ en, i = .setOe en → P (if en then enableBus s else releaseBus s)) : P t := by
  refine exec_closed hl.seqClosed h (fun _ => hl.offLines_keeps s _ _ _ _ _ _ _ _ hs)
    (fun en he _ => hl.offLines_keeps _ _ _ _ _ _ _ _ _ (hoe en he))
    (fun a _ _ hd => hl.offLines_keeps _ _ _ _ _ _ _ _ _ (hl.csWrite_keeps a s hd hs))
    (fun out _ _ hd => ?_) (fun hr => ⟨hr.2.1, hs⟩)
  rw [hostXfer_eq]
  exact hl.offLines_keeps _ _ _ _ _ _ _ _ _ (hl.afterByte_keeps out s hd hs)

end LinesClosed

/-- `step_cases` as a rule: what holds when the block waits, after a reset, after a refused request, and after any instruction run with any
rest of the host's queue holds after a step. -/
theorem step_closed {Q : State → Prop} {s t : State} (h : step s = .next t)
    (hwait : s.seq = .idle → s.hostQueue = [] → Q s)
    (hreset : ∀ rest, s.seq = .idle → s.hostQueue = .reset :: rest → Q (sessionReset { s with hostQueue := rest }))
    (hrefuse : ∀ r rest, Q (refuse r { s with hostQueue := rest }))
    (hexec : ∀ i rest, exec i { s with hostQueue := rest } = .next t → Q t) : Q t := by
  rcases step_cases h with ⟨hidle, hq, rfl⟩ | ⟨rest, hidle, hq, rfl⟩ | ⟨_, rest, e, -, -, -, rfl⟩ | ⟨_, rest, i, -, -, -, he⟩ |
    ⟨_, i, -, -, he⟩ | ⟨i, -, he⟩
  · exact hwait hidle hq
  · exact hreset rest hidle hq
  · exact hrefuse _ rest
  · exact hexec i rest he
  · exact hexec i s.hostQueue he
  · exact hexec i s.hostQueue he

/-- A property of the lines is kept by every step, if SET_OE and a reset that is the next host move keep it too. -/
theorem LinesClosed.step_keeps {P : State → Prop} (hl : LinesClosed P)
    (hoe : ∀ (en : Bool) s, P s → P (if en then enableBus s else releaseBus s)) {s t : State} (h : step s = .next t) (hs : P s)
    (hreset : ∀ rest, s.ResetNext → P (sessionReset { s with hostQueue := rest })) : P t := by
  have hqueue (rest : List HostMove) : P { s with hostQueue := rest } := hl.offLines_keeps s _ _ _ _ _ _ _ _ hs
  refine step_closed h (fun _ _ => hs) (fun rest hidle hq => hreset rest ⟨hidle, by rw [hq]; rfl⟩) (fun r rest => ?_)
    (fun i rest he => hl.exec_keeps he (hqueue rest) fun en _ => hoe en _ (hqueue rest))
  exact hl.offLines_keeps _ _ _ _ _ _ _ _ _ (hqueue rest)

/-! ### The pins' invariant -/

/-- The level a chip-select write drives is the active one exactly when it asserts (R20, R72). -/
theorem csLevel_beq_active (cfg : Config) (a : Bool) : (csLevel cfg a == cfg.csActiveLevel) = a := by
  cases a <;> simp [csLevel]

theorem pinsInv_linesClosed : LinesClosed State.PinsInv where
  csWrite_keeps a s hoe hs :=
    { csAgrees := fun _ => (csLevel_beq_active s.cfg a).symm
      sckLow := hs.sckLow
      releasedNotAsserted := fun h => absurd (hoe.symm.trans h) (by decide)
      bitCntRange := hs.bitCntRange }
  afterByte_keeps _ _ _ hs := ⟨hs.csAgrees, fun _ => rfl, hs.releasedNotAsserted, le_rfl⟩
  offLines_keeps _ _ _ _ _ _ _ _ _ hs := ⟨hs.csAgrees, hs.sckLow, hs.releasedNotAsserted, hs.bitCntRange⟩

theorem enableBus_pinsInv {s : State} (hs : s.PinsInv) : (enableBus s).PinsInv where
  csAgrees _ := (csLevel_beq_active s.cfg false).symm
  sckLow _ := rfl
  releasedNotAsserted _ := rfl
  bitCntRange := hs.bitCntRange

theorem releaseBus_pinsInv {s : State} (hs : s.PinsInv) : (releaseBus s).PinsInv where
  csAgrees := nofun
  sckLow := nofun
  releasedNotAsserted _ := rfl
  bitCntRange := hs.bitCntRange

theorem sessionReset_pinsInv (s : State) : (sessionReset s).PinsInv where
  csAgrees := nofun
  sckLow := nofun
  releasedNotAsserted _ := rfl
  bitCntRange := Nat.zero_le 8

/-- Settles O43: the pins' invariant is a property of the lines that SET_OE and reset establish afresh. -/
theorem stepKeepsPinsInv : Obligations.StepKeepsPinsInv := by
  intro s t hs h
  refine pinsInv_linesClosed.step_keeps (fun en u hu => ?_) h hs (fun _ _ => sessionReset_pinsInv _)
  cases en
  · exact releaseBus_pinsInv hu
  · exact enableBus_pinsInv hu

/-! ### The trace's invariant -/

/-- One event hands on the level it gives SCK, if any; a starting level otherwise goes on. -/
theorem mosiChangesWhileLow_cons (l : Level) (e : Event) (es : List Event) :
    mosiChangesWhileLow l (e :: es) =
      (mosiChangesWhileLow l [e] && mosiChangesWhileLow ((lastLevel .sck [e]).getD l) es) := by
  cases e with
  | drive p l' => cases p <;> simp [mosiChangesWhileLow, lastLevel]
  | configure p d l' => cases p <;> cases d <;> cases l' <;> rfl
  | sample p l' => rfl
  | delay d => rfl

/-- MOSI stays quiet over events and then over more, the latter starting at the level of SCK the former show (R78). -/
theorem mosiChangesWhileLow_append (l : Level) (a b : List Event) :
    mosiChangesWhileLow l (a ++ b) =
      (mosiChangesWhileLow l a && mosiChangesWhileLow ((lastLevel .sck a).getD l) b) := by
  induction a generalizing l with
  | nil => rfl
  | cons e es ih =>
    have hlast : (lastLevel .sck (e :: es)).getD l = (lastLevel .sck es).getD ((lastLevel .sck [e]).getD l) := by
      rw [← List.singleton_append, lastLevel_append]
      cases lastLevel .sck es <;> rfl
    rw [List.cons_append, mosiChangesWhileLow_cons, ih, mosiChangesWhileLow_cons l e es, hlast, Bool.and_assoc]

theorem lastLevel_sck_byteEvents (out : Byte) (l : Nat → Level) : lastLevel .sck (byteEvents out l) = some false := rfl

theorem lastLevel_mosi_byteEvents (out : Byte) (l : Nat → Level) : lastLevel .mosi (byteEvents out l) = some (out.getLsbD 0) := rfl

theorem lastLevel_csn_byteEvents (out : Byte) (l : Nat → Level) : lastLevel .csn (byteEvents out l) = none := rfl

/-- Each bit of an exchange takes SCK low before it drives MOSI, so the level SCK begins at does not matter (R75, R78). -/
theorem mosiChangesWhileLow_byteEvents (start : Level) (out : Byte) (l : Nat → Level) :
    mosiChangesWhileLow start (byteEvents out l) = true := rfl

/-- The trace's invariant goes on over events that keep MOSI quiet from any level of SCK and that show the latches they change. -/
theorem traceInv_append {s t : State} (hs : s.TraceInv) (ev : List Event) (htrace : t.trace = s.trace ++ ev)
    (hquiet : ∀ l, mosiChangesWhileLow l ev = true)
    (hsck : t.oe = true → lastLevel .sck t.trace = some t.sckQ) (hmosi : t.oe = true → lastLevel .mosi t.trace = some t.mosiQ)
    (hcsn : t.oe = true → lastLevel .csn t.trace = some t.csnQ) : t.TraceInv :=
  ⟨hsck, hmosi, hcsn, by rw [htrace, mosiChangesWhileLow_append, hs.mosiQuiet, hquiet]; rfl⟩

theorem traceInv_linesClosed : LinesClosed State.TraceInv where
  csWrite_keeps a s _ hs := by
    refine traceInv_append hs [.drive .csn (csLevel s.cfg a), .delay .cs] (by simp) (fun _ => rfl) (fun h => ?_) (fun h => ?_)
      (fun _ => ?_)
    · simpa [lastLevel_append, lastLevel] using hs.sckShown h
    · simpa [lastLevel_append, lastLevel] using hs.mosiShown h
    · simp [lastLevel_append, lastLevel]
  afterByte_keeps out s _ hs := by
    refine traceInv_append hs (byteEvents out s.level) rfl (fun l => mosiChangesWhileLow_byteEvents l out s.level) (fun _ => ?_)
      (fun _ => ?_) (fun h => ?_)
    · simp [lastLevel_append, lastLevel_sck_byteEvents]
    · simp [lastLevel_append, lastLevel_mosi_byteEvents]
    · simpa [lastLevel_append, lastLevel_csn_byteEvents] using hs.csnShown h
  offLines_keeps _ _ _ _ _ _ _ _ _ hs := ⟨hs.sckShown, hs.mosiShown, hs.csnShown, hs.mosiQuiet⟩

/-- The events of SET_OE 1: three lines made outputs at their resting levels, MISO an input (R70). -/
theorem enableBus_trace (s : State) :
    (enableBus s).trace = s.trace ++
      [.configure .sck .output (some false), .configure .mosi .output (some false),
        .configure .csn .output (some (csLevel s.cfg false)), .configure .miso .input none] := by
  simp [enableBus, configureOut, configureIn, setLatch]

/-- The events of SET_OE 0: four inputs (R71). -/
theorem releaseBus_trace (s : State) :
    (releaseBus s).trace = s.trace ++
      [.configure .sck .input none, .configure .mosi .input none, .configure .csn .input none, .configure .miso .input none] := by
  simp [releaseBus, configureIn]

theorem enableBus_traceInv {s : State} (hs : s.TraceInv) : (enableBus s).TraceInv := by
  refine traceInv_append hs _ (enableBus_trace s) (fun _ => rfl) (fun _ => ?_) (fun _ => ?_) (fun _ => ?_)
  all_goals
    rw [enableBus_trace, lastLevel_append]
    rfl

theorem releaseBus_traceInv {s : State} (hs : s.TraceInv) : (releaseBus s).TraceInv :=
  traceInv_append hs _ (releaseBus_trace s) (fun _ => rfl) nofun nofun nofun

theorem sessionReset_traceInv (s : State) : (sessionReset s).TraceInv := ⟨nofun, nofun, nofun, rfl⟩

/-- Settles O45: the trace's invariant is a property of the lines; SET_OE 1 shows all three latches, and a released bus shows none. -/
theorem stepKeepsTraceInv : Obligations.StepKeepsTraceInv := by
  intro s t hs h
  refine traceInv_linesClosed.step_keeps (fun en u hu => ?_) h hs (fun _ _ => sessionReset_traceInv _)
  cases en
  · exact releaseBus_traceInv hu
  · exact enableBus_traceInv hu

/-! ### The trace grows, and samples are draws in order -/

/-- `t` comes after `s` with events appended, the samples among them being the next levels of MISO in order (R19, R27). -/
def State.AppendsTo (s t : State) : Prop :=
  ∃ ev n, t.trace = s.trace ++ ev ∧ samplesOf ev = (List.range n).map s.level ∧ t.draws = s.draws + n ∧ t.misoIn = s.misoIn.drop n

theorem samplesOf_append (a b : List Event) : samplesOf (a ++ b) = samplesOf a ++ samplesOf b := List.filterMap_append

/-- An exchange samples MISO once for each bit (R75). -/
theorem samplesOf_byteEvents (out : Byte) (l : Nat → Level) : samplesOf (byteEvents out l) = (List.range 8).map l := rfl

/-- Events that sample nothing, with no draw used up. -/
theorem appendsTo_of_no_sample {s t : State} (ev : List Event) (htrace : t.trace = s.trace ++ ev) (hev : samplesOf ev = [])
    (hdraws : t.draws = s.draws) (hmiso : t.misoIn = s.misoIn) : s.AppendsTo t :=
  ⟨ev, 0, htrace, hev, hdraws, hmiso⟩

theorem State.AppendsTo.refl (s : State) : s.AppendsTo s := appendsTo_of_no_sample [] (List.append_nil _).symm rfl rfl rfl

theorem State.AppendsTo.trans {s t u : State} (hst : s.AppendsTo t) (htu : t.AppendsTo u) : s.AppendsTo u := by
  obtain ⟨ev, n, htr, hsm, hdr, hmi⟩ := hst
  obtain ⟨ev', n', htr', hsm', hdr', hmi'⟩ := htu
  refine ⟨ev ++ ev', n + n', ?_, ?_, ?_, ?_⟩
  · rw [htr', htr, List.append_assoc]
  · have hlevel : t.level = s.level ∘ (n + ·) := funext (level_congr hmi hdr)
    rw [samplesOf_append, hsm, hsm', hlevel, List.range_add, List.map_append, List.map_map]
  · rw [hdr', hdr, Nat.add_assoc]
  · rw [hmi', hmi, List.drop_drop]

theorem appendsTo_linesClosed (s : State) : LinesClosed s.AppendsTo where
  csWrite_keeps a t _ ht :=
    State.AppendsTo.trans ht (appendsTo_of_no_sample [.drive .csn (csLevel t.cfg a), .delay .cs] (by simp) rfl rfl rfl)
  afterByte_keeps out t _ ht := State.AppendsTo.trans ht ⟨byteEvents out t.level, 8, rfl, samplesOf_byteEvents out t.level, rfl, rfl⟩
  offLines_keeps _ _ _ _ _ _ _ _ _ ht := ht

theorem enableBus_appendsTo (s : State) : s.AppendsTo (enableBus s) :=
  appendsTo_of_no_sample _ (enableBus_trace s) rfl rfl rfl

theorem releaseBus_appendsTo (s : State) : s.AppendsTo (releaseBus s) :=
  appendsTo_of_no_sample _ (releaseBus_trace s) rfl rfl rfl

/-- Settles O49: coming after `s` by appended events is a property of the lines, and only a reset, excluded here, empties the trace. -/
theorem stepAppendsToTheTrace : Obligations.StepAppendsToTheTrace := by
  intro s t h hno
  refine (appendsTo_linesClosed s).step_keeps (fun en u hu => ?_) h (State.AppendsTo.refl s) (fun _ hr => absurd hr hno)
  cases en
  · exact hu.trans (releaseBus_appendsTo u)
  · exact hu.trans (enableBus_appendsTo u)

/-! ### The block always answers -/

/-- A wire command's frame decodes to it, if the opcodes are distinct and its operands are well formed (R56, R58). -/
theorem decodeFrame_frameOf {cfg : Config} (hop : cfg.opcodes.Nodup) {i : Instr} (hwire : i.isWire = true) (hwf : i.wf cfg = true) :
    decodeFrame cfg (frameOf cfg i) = .ok i := by
  have hdecode (c : Command) (ps : List Byte) (h : wireOf cfg c ps = some i) :
      decodeFrame cfg (cfg.opcode c :: ps) = .ok i := by
    simp only [decodeFrame, commandOf_opcode hop, h]
  cases i
  case opRdsr => exact hdecode .rdsr _ (by simp [wireOf])
  case opWren => exact hdecode .wren _ rfl
  case opWrdis => exact hdecode .wrdis _ rfl
  case opWrsr flag => exact hdecode .wrsr _ (by simpa [wireOf, Instr.wf, or_iff_not_imp_left] using hwf)
  case opErasePage page => exact hdecode .erasePage _ rfl
  case opEraseAll => exact hdecode .eraseAll _ rfl
  case opProgram addr data => exact hdecode .program _ (by simp [wireOf, addrBytes, addrBytes_join])
  case opRead addr count => exact hdecode .read _ (by simp [wireOf, addrBytes, addrBytes_join])
  all_goals cases hwire

/-- The frame at a position of the block's own is the frame of a well-formed wire command (R62). -/
theorem pendingFrame_is_frameOf {cfg : Config} {q : Seq} {bytes : List Byte} (h : pendingFrame cfg q = some bytes)
    (hq : ∀ b, q ≠ .command b) : ∃ i : Instr, i.isWire = true ∧ i.wf cfg = true ∧ frameOf cfg i = bytes := by
  cases q with
  | idle => cases h
  | setOe en => cases h
  | setCs a => cases h
  | xfer out => cases h
  | command b => exact absurd rfl (hq b)
  | erase e =>
    cases e with
    | all => exact ⟨.opEraseAll, rfl, rfl, Option.some.inj h⟩
    | page p => exact ⟨.opErasePage p, rfl, rfl, Option.some.inj h⟩
  | poll w => exact ⟨.opRdsr, rfl, rfl, Option.some.inj h⟩
  | enable => exact ⟨.opWren, rfl, rfl, Option.some.inj h⟩
  | confirm => exact ⟨.opRdsr, rfl, rfl, Option.some.inj h⟩
  | chunk k phase addr data =>
    cases phase with
    | wait => exact ⟨.opRdsr, rfl, rfl, Option.some.inj h⟩
    | enable => exact ⟨.opWren, rfl, rfl, Option.some.inj h⟩
    | confirm => exact ⟨.opRdsr, rfl, rfl, Option.some.inj h⟩
    | send => exact ⟨.opProgram _ _, rfl, rfl, Option.some.inj h⟩

/-- A frame that decodes is run (R14). -/
theorem frameStep_of_decodeFrame {s : State} {bytes : List Byte} {i : Instr} (h : decodeFrame s.cfg bytes = .ok i) :
    frameStep bytes s = exec i s := by
  simp only [frameStep, h]

/-- A step at the position of a transceiver request runs that request (log 20). -/
theorem step_of_pendingRequest {s : State} {i : Instr} (h : pendingRequest s.seq = some i) : step s = exec i s := by
  simp only [step, h]

theorem takeRequest_of_decodeRequest {s : State} {r : Request} {i : Instr} (h : decodeRequest r = .ok i) :
    takeRequest r s = exec i s := by
  simp only [takeRequest, h]

theorem hostStep_of_present {s : State} {r : Request} {rest : List HostMove} (h : s.hostQueue = .present r :: rest) :
    hostStep s = takeRequest r { s with hostQueue := rest } := by
  simp only [hostStep, h]

theorem takeRequest_next (r : Request) (s : State) : ∃ t, takeRequest r s = .next t := by
  unfold takeRequest
  split
  · exact exec_next _ s
  · exact ⟨_, rfl⟩

/-- At Idle the block always answers: it waits, takes a request or resets. -/
theorem hostStep_next (s : State) : ∃ t, hostStep s = .next t := by
  unfold hostStep
  split
  · exact ⟨_, rfl⟩
  · exact takeRequest_next _ _
  · exact ⟨_, rfl⟩

/-- Settles O10: the only stop is a frame that does not decode, and the block's own frames decode. -/
theorem blockAlwaysAnswers : Obligations.BlockAlwaysAnswers := by
  intro s hwf hseq
  cases hr : pendingRequest s.seq with
  | some i =>
    rw [step_of_pendingRequest hr]
    exact exec_next i s
  | none =>
    cases hp : pendingFrame s.cfg s.seq with
    | some bytes =>
      obtain ⟨i, hwire, hi, rfl⟩ := pendingFrame_is_frameOf hp hseq
      rw [step_of_frame hp, frameStep_of_decodeFrame (decodeFrame_frameOf (Config.wf_nodup hwf) hwire hi)]
      exact exec_next i s
    | none =>
      rw [step_of_idle (idle_of_nothing_pending hr hp)]
      exact hostStep_next s

/-- Settles O9: each clause is the branch of the step that its premise selects. -/
theorem stepRunsDecodedInstruction : Obligations.StepRunsDecodedInstruction := by
  refine ⟨fun s r rest i hidle hq hd => ?_, fun s bytes i hp hd => ?_, fun s i hr => step_of_pendingRequest hr⟩
  · rw [step_of_idle hidle, hostStep_of_present hq, takeRequest_of_decodeRequest hd]
  · rw [step_of_frame hp, frameStep_of_decodeFrame hd]

/-! ### OE -/

/-- Chip-select writes and exchanges leave OE. -/
theorem oe_linesClosed (b : Bool) : LinesClosed fun s => s.oe = b where
  csWrite_keeps _ _ _ h := h
  afterByte_keeps _ _ _ h := h
  offLines_keeps _ _ _ _ _ _ _ _ _ h := h

/-- Settles O48: having the OE of before is a property of the lines. -/
theorem onlySetOeWritesOe : Obligations.OnlySetOeWritesOe :=
  fun _ s _ h hno => (oe_linesClosed s.oe).exec_keeps h rfl fun en he => absurd he (hno en)

/-! ### One response -/

/-- The two ways a step leaves a request, counted from the responses `rs` before it: ended with one response, or in a busy wait with none
(R28, R64; log 6). -/
def State.AnsweredOnceOrWaits (rs : List Response) (t : State) : Prop :=
  (t.seq = .idle ∧ ∃ r, t.responses = rs ++ [r]) ∨ (t.seq.isWait = true ∧ t.responses = rs)

theorem respond_answeredOnceOrWaits {rs : List Response} (r : Response) (s : State) (h : s.responses = rs) :
    State.AnsweredOnceOrWaits rs (respond r s) :=
  .inl ⟨rfl, r, by rw [respond_responses, h]⟩

/-- Frames and the sequencer's bookkeeping answer nothing, and every end of a request answers once. -/
theorem responses_seqClosed (rs : List Response) : SeqClosed (fun s => s.responses = rs) (State.AnsweredOnceOrWaits rs) where
  send c i s hi h := by
    rw [sendCommand_eq c _ s (frameOf_ne_nil s.cfg i hi)]
    exact h
  seq _ _ h := h
  polls _ _ h := h
  arm _ h := h
  respond r s _ h := respond_answeredOnceOrWaits r s h
  fault k s h _ _ := respond_answeredOnceOrWaits (.faulted k) { s with fault := some k } h
  park _ h hw := .inr ⟨hw, h⟩

theorem hostXfer_answeredOnceOrWaits (out : Byte) (s : State) : State.AnsweredOnceOrWaits s.responses (hostXfer out s) := by
  rw [hostXfer_eq]
  exact .inl ⟨rfl, _, rfl⟩

theorem exec_answeredOnceOrWaits {i : Instr} {s t : State} (h : exec i s = .next t) : State.AnsweredOnceOrWaits s.responses t := by
  refine exec_closed (responses_seqClosed s.responses) h ?_ ?_ ?_ ?_ ?_
  · exact fun r => respond_answeredOnceOrWaits (.refused r) s rfl
  · rintro (_ | _) - -
    · exact respond_answeredOnceOrWaits .done (releaseBus s) rfl
    · exact respond_answeredOnceOrWaits .done (enableBus s) rfl
  · exact fun a _ _ _ => respond_answeredOnceOrWaits .done (csWrite a s) rfl
  · exact fun out _ _ _ => hostXfer_answeredOnceOrWaits out s
  · exact fun _ => rfl

/-- Settles O50: every instruction ends with one response or in a busy wait, and a step that neither waits nor resets refuses a request
or runs an instruction. -/
theorem oneResponsePerRequest : Obligations.OneResponsePerRequest := by
  intro s t h hno hbusy
  show State.AnsweredOnceOrWaits s.responses t
  refine step_closed h (fun hidle hq => ?_) (fun rest hidle hq => ?_) (fun r rest => ?_) (fun i rest he => ?_)
  · exact absurd ⟨hidle, hq⟩ hbusy
  · exact absurd ⟨hidle, by rw [hq]; rfl⟩ hno
  · exact respond_answeredOnceOrWaits (.refused r) { s with hostQueue := rest } rfl
  · exact exec_answeredOnceOrWaits (s := { s with hostQueue := rest }) he

/-! ### Reset -/

/-- Settles O7: the reset state is written out with the values of R34. -/
theorem resetStateIsTheTables : Obligations.ResetStateIsTheTables :=
  ⟨rfl, rfl, rfl, rfl, rfl, rfl, rfl, rfl, rfl, rfl⟩

/-- The sequencer's invariant at reset: Idle, no fault. -/
theorem reset_seqInv : State.reset.SeqInv where
  position := .inl rfl
  waitReady h := absurd rfl h
  faultDriven h := absurd rfl h
  unresponsiveBounded := nofun

/-- Settles O42: the reset state is its own reset, which meets the invariants of the lines on a released bus. -/
theorem resetMeetsTheInvariants : Obligations.ResetMeetsTheInvariants :=
  ⟨sessionReset_pinsInv State.reset, reset_seqInv, sessionReset_traceInv State.reset⟩

/-! ### Wire commands at their requests' positions -/

/-- At `Enable` what follows WREN is its confirmation (R99). -/
theorem goOnAfterWren_of_enable {s : State} (h : s.seq = .enable) : goOnAfterWren s = confirmThen .confirm finish s := by
  simp only [goOnAfterWren, h]

/-- At `Poll` what follows RDSR is the count of the poll (R96). -/
theorem goOnAfterStatus_of_poll {s : State} {w : Waiter} (h : s.seq = .poll w) (st : Byte) :
    goOnAfterStatus st s = afterPoll finish st s := by
  simp only [goOnAfterStatus, h]

/-- Putting SEQ where it already is changes nothing. -/
theorem with_seq_self {s : State} {q : Seq} (h : s.seq = q) : { s with seq := q } = s := by
  rw [← h]

/-- WREN at `Enable` does what the write-enable does from its start (R99). -/
theorem issueWren_of_enable {s : State} (h : s.seq = .enable) : issueWren s = writeEnableThen .enable .confirm finish s := by
  have hsent : (sendWren s).seq = .enable := by
    rw [sendWren_eq]
    exact h
  rw [issueWren, goOnAfterWren_of_enable hsent, writeEnableThen, with_seq_self h]

/-- RDSR at an uncounted poll does what the busy wait does from its start (R96). -/
theorem issueRdsr_of_poll {s : State} {w : Waiter} (h : s.seq = .poll w) (hp : s.polls = 0) :
    issueRdsr s = waitReadyThen (.poll w) finish s := by
  have hstart : { s with polls := 0, seq := .poll w } = s := by rw [← h, ← hp]
  rw [issueRdsr, waitReadyThen, hstart, readStatusThen_eq, readStatusThen_eq, goOnAfterStatus_of_poll]
  exact h

/-- Two meanings behind the checks agree on a ready state where their bodies do (R114). -/
theorem next_commandChecks_congr {s : State} (hready : s.Ready) {body body' : State → State} (h : body s = body' s) :
    (.next (commandChecks body s) : Host.Outcome State Fault Refusal) = .next (commandChecks body' s) := by
  rw [commandChecks_ready hready, commandChecks_ready hready, h]

/-- Settles O27: past the checks, each request begins by putting SEQ where it already is. -/
theorem wireCommandsGoOnAsTheirRequests : Obligations.WireCommandsGoOnAsTheirRequests := by
  intro s hready
  refine ⟨fun h => ?_, fun h => ?_, fun page h => ?_, fun h hp => ?_⟩
  · exact next_commandChecks_congr hready (issueWren_of_enable h)
  · exact next_commandChecks_congr hready (congrArg issueEraseAll (with_seq_self h).symm)
  · exact next_commandChecks_congr hready (congrArg (issueErasePage page) (with_seq_self h).symm)
  · exact next_commandChecks_congr hready (issueRdsr_of_poll h hp)

end Sys2Proof.Machine
end

section
/-! PROOFS. Family 20_memory.md: what a device on the lines reads from a single-frame request. Each of the five requests adds the events of its
one frame to the trace (`singleFrame_trace`); what the device makes of a frame's events is `see_frame`. -/

namespace Sys2Proof.Machine

/-! ### The delays of a frame -/

/-- Two of the seven events of each bit are delays (R75, R143). -/
theorem byteEvents_countP_isDelay (b : Byte) (l : Nat → Level) : (byteEvents b l).countP Event.isDelay = 16 := rfl

theorem exchangeEvents_countP_isDelay (bytes : List Byte) (l : Nat → Level) :
    (exchangeEvents bytes l).countP Event.isDelay = 16 * bytes.length := by
  induction bytes generalizing l with
  | nil => rfl
  | cons b bs ih =>
    rw [exchangeEvents, List.countP_append, byteEvents_countP_isDelay, ih, List.length_cons]
    omega

/-- The two chip-select writes of a frame settle once each (R83, R143). -/
theorem frameEvents_countP_isDelay (cfg : Config) (bytes : List Byte) (l : Nat → Level) :
    (frameEvents cfg bytes l).countP Event.isDelay = 2 + 16 * bytes.length := by
  simp only [frameEvents, List.countP_append, exchangeEvents_countP_isDelay, List.countP_cons, List.countP_nil, Event.isDelay,
    Bool.false_eq_true, if_true, if_false]
  omega

/-! ### The lines before a frame, and the device that reads it -/

/-- A block that may start a frame has chip-select de-asserted on its line (R20). -/
theorem csnQ_of_ready {s : State} (hready : s.Ready) (hpins : s.PinsInv) : s.csnQ = !s.cfg.csActiveLevel := by
  obtain ⟨-, hoe, hcs⟩ := hready
  have hagree : (s.csnQ == s.cfg.csActiveLevel) = false := (hpins.csAgrees hoe).symm.trans hcs
  exact Bool.eq_not.mpr (beq_eq_false_iff_ne.mp hagree)

/-- A device that begins at the levels between frames reads one frame's events as that frame (R38, R52). -/
theorem framesSeen_frameEvents (cfg : Config) {bytes : List Byte} (hb : bytes ≠ []) (mosi : Level) (l : Nat → Level) :
    framesSeen cfg false mosi (!cfg.csActiveLevel) (frameEvents cfg bytes l) = [bytes] := by
  rw [framesSeen, see_frame cfg bytes hb l _ rfl rfl]
  rfl

/-! ### The events of a single-frame request -/

/-- A command frame adds its frame's events to the trace, whatever its ghost updates (R83, R92). -/
theorem sendCommand_trace (c : Command) (s : State) {bytes : List Byte} (hb : bytes ≠ []) :
    (sendCommand c bytes s).2.trace = s.trace ++ frameEvents s.cfg bytes s.level := by
  rw [sendCommand_eq c bytes s hb]
  rfl

/-- At the one frame of a single-frame request, RDSR's status ends it (R87). -/
theorem goOnAfterStatus_of_command {s : State} {bytes : List Byte} (h : s.seq = .command bytes) (st : Byte) :
    goOnAfterStatus st s = respond (.status st) s := by
  simp only [goOnAfterStatus, h]

/-- At the one frame of a single-frame request, the PROGRAM frame ends it (R90). -/
theorem goOnAfterProgram_of_command {s : State} {bytes : List Byte} (h : s.seq = .command bytes) :
    goOnAfterProgram s = finish s := by
  simp only [goOnAfterProgram, h]

theorem issueWrsr_trace (flag : Byte) (s : State) :
    (issueWrsr flag s).trace = s.trace ++ frameEvents s.cfg (frameOf s.cfg (.opWrsr flag)) s.level := by
  rw [issueWrsr, finish, respond_trace, sendCommand_trace .wrsr s (frameOf_ne_nil s.cfg (.opWrsr flag) rfl)]

theorem issueWrdis_trace (s : State) : (issueWrdis s).trace = s.trace ++ frameEvents s.cfg (frameOf s.cfg .opWrdis) s.level := by
  rw [issueWrdis, finish, respond_trace, sendCommand_trace .wrdis s (frameOf_ne_nil s.cfg .opWrdis rfl)]

theorem issueRead_trace (addr : Addr) (count : Nat) (s : State) :
    (issueRead addr count s).trace = s.trace ++ frameEvents s.cfg (frameOf s.cfg (.opRead addr count)) s.level := by
  rw [issueRead, respond_trace, sendCommand_trace .read s (frameOf_ne_nil s.cfg (.opRead addr count) rfl)]

theorem issueRdsr_trace_of_command {s : State} {bytes : List Byte} (h : s.seq = .command bytes) :
    (issueRdsr s).trace = s.trace ++ frameEvents s.cfg (frameOf s.cfg .opRdsr) s.level := by
  rw [issueRdsr, readStatusThen_eq, goOnAfterStatus_of_command]
  · rfl
  · exact h

theorem issueProgram_trace_of_command (addr : Addr) (data : List Byte) {s : State} {bytes : List Byte} (h : s.seq = .command bytes) :
    (issueProgram addr data s).trace = s.trace ++ frameEvents s.cfg (frameOf s.cfg (.opProgram addr data)) s.level := by
  rw [issueProgram, sendProgram_eq, goOnAfterProgram_of_command]
  · rfl
  · exact h

/-- A meaning behind the checks, on a state that passes them, adds the events its body does. -/
theorem trace_of_commandChecks {i : Instr} {s : State} {ev : List Event} (body : State → State) (hready : s.Ready)
    (hexec : exec i s = .next (commandChecks body s)) (htrace : (body s).trace = s.trace ++ ev) :
    ∃ t, exec i s = .next t ∧ t.trace = s.trace ++ ev :=
  ⟨body s, by rw [hexec, commandChecks_ready hready], htrace⟩

/-- A single-frame request adds exactly the events of its frame to the trace (R58, R91). -/
theorem singleFrame_trace {i : Instr} {bytes : List Byte} {s : State} (h : singleFrame s.cfg i = some bytes) (hready : s.Ready) :
    ∃ t, exec i s = .next t ∧ t.trace = s.trace ++ frameEvents s.cfg bytes s.level := by
  cases i <;> cases h
  case selectRegion info =>
    exact trace_of_commandChecks _ hready rfl (issueWrsr_trace (flagByte s.cfg info) _)
  case readStatus =>
    exact trace_of_commandChecks _ hready rfl (issueRdsr_trace_of_command (s := atCommand .opRdsr s) rfl)
  case writeDisable =>
    exact trace_of_commandChecks _ hready rfl (issueWrdis_trace _)
  case read addr count =>
    exact trace_of_commandChecks _ hready rfl (issueRead_trace addr count _)
  case program addr data =>
    exact trace_of_commandChecks _ hready rfl
      (issueProgram_trace_of_command addr data (s := atCommand (.opProgram addr data) s) rfl)

theorem singleFrame_ne_nil {cfg : Config} {i : Instr} {bytes : List Byte} (h : singleFrame cfg i = some bytes) : bytes ≠ [] := by
  unfold singleFrame at h
  split at h <;> cases h <;> exact List.cons_ne_nil _ _

/-- Settles O25: the request adds its frame's events, which a device that begins with chip-select de-asserted and SCK low reads as that frame. -/
theorem deviceReadsTheCommandFrame : Obligations.DeviceReadsTheCommandFrame := by
  intro i bytes s hframe hready hpins
  obtain ⟨t, hexec, htrace⟩ := singleFrame_trace hframe hready
  refine ⟨t, _, hexec, htrace, ?_, frameEvents_length .., frameEvents_countP_isDelay ..⟩
  rw [csnQ_of_ready hready hpins, hpins.sckLow hready.2.1]
  exact framesSeen_frameEvents s.cfg (singleFrame_ne_nil hframe) s.mosiQ s.level

end Sys2Proof.Machine
end

section
/-! PROOFS. Family 30_encoding.md: the two codecs, the refusals of headers that do not decode, and the frames the block puts on the wire. A
request's header that decodes is made of the fields its request uses (`requestFor_header_of_requestOf`), a frame of its opcode and the
parameters of its command (`frameOf_of_wireOf`). -/

namespace Sys2Proof.Machine

/-! ### Request headers: encoding, then decoding -/

/-- A request decodes exactly when its code names it and the fields it does not use are 0 (R65, R66). -/
theorem decodeRequest_eq_ok_iff {r : Request} {i : Instr} :
    decodeRequest r = .ok i ↔ requestOf r = some i ∧ unusedZero i r.header = true := by
  cases hr : requestOf r with
  | none => simp [decodeRequest, hr]
  | some j =>
    simp only [decodeRequest, hr, Option.some.injEq]
    cases hz : unusedZero j r.header <;> simpa using fun h : j = i => h ▸ hz

/-- A request's encoding names it again, and sets no bit outside the fields it uses (R64, R65). -/
theorem decodeRequest_requestFor {i : Instr} (h : i.isWire = false) : decodeRequest (requestFor i) = .ok i := by
  rw [decodeRequest_eq_ok_iff]
  cases i
  case opRdsr | opWren | opWrdis | opWrsr | opErasePage | opEraseAll | opProgram | opRead => cases h
  all_goals simp [requestFor, requestOf, unusedZero, Instr.usesFlag, Instr.usesByte, Instr.usesAddr]

/-- Settles O1: a wire command is encoded as its frame, a request as its header and payload, and each of the two decodes back. -/
theorem encodedInstructionsDecodeBack : Obligations.EncodedInstructionsDecodeBack := by
  intro cfg i hcfg hi
  unfold encode
  cases hw : i.isWire with
  | true => exact decodeFrame_frameOf (Config.wf_nodup hcfg) hw hi
  | false => exact decodeRequest_requestFor hw

/-! ### Request headers: decoding, then encoding -/

/-- A header word with its reserved bits 0 is made of its fields: they leave out no other bit (R65). -/
theorem mkHeader_of_fields {h : Header} (hreserved : hdrReserved h = 0) :
    mkHeader (h.extractLsb' 0 4) (hdrFlag h) (hdrByte h) (hdrAddr h) = h := by
  have hr (k : Nat) (hk : k < 3) : h.getLsbD (5 + k) = false := by
    simpa [hdrReserved, hk] using congrArg (BitVec.getLsbD · k) hreserved
  apply BitVec.eq_of_getLsbD_eq
  intro k hk
  rw [mkHeader_getLsbD]
  split_ifs with h4 h5 h8 h16
  · simp [h4]
  · rw [hdrFlag, show k = 4 by omega]
  · rw [← hr (k - 5) (by omega), show 5 + (k - 5) = k by omega]
  · simp [hdrByte, show k - 8 < 8 by omega, show 8 + (k - 8) = k by omega]
  · simp [hdrAddr, show k - 16 < 16 by omega, show 16 + (k - 16) = k by omega]

/-- The header of the request a word names has the word's code and, of its fields, those the request uses (R64, R65). -/
theorem requestFor_header_of_requestOf {r : Request} {i : Instr} (h : requestOf r = some i) :
    (requestFor i).header =
      mkHeader (r.header.extractLsb' 0 4) (i.usesFlag && hdrFlag r.header) (if i.usesByte then hdrByte r.header else 0)
        (if i.usesAddr then hdrAddr r.header else 0) := by
  have hcode (n : Nat) (hn : hdrCode r.header = n) : r.header.extractLsb' 0 4 = BitVec.ofNat 4 n := by
    rw [← hn, hdrCode, BitVec.ofNat_toNat, BitVec.setWidth_eq]
  unfold requestOf at h
  split at h <;> cases h
  all_goals
    rw [hcode _ ‹_›]
    rfl

/-- Where the fields that a request does not use are 0, leaving them out changes no field of the word (R65). -/
theorem fields_of_unusedZero {i : Instr} {h : Header} (hz : unusedZero i h = true) :
    hdrReserved h = 0 ∧ (i.usesFlag && hdrFlag h) = hdrFlag h ∧ (if i.usesByte then hdrByte h else 0) = hdrByte h ∧
      (if i.usesAddr then hdrAddr h else 0) = hdrAddr h := by
  simp only [unusedZero, Bool.and_eq_true, Bool.or_eq_true, beq_iff_eq, Bool.not_eq_true'] at hz
  obtain ⟨⟨⟨hreserved, hflag⟩, hbyte⟩, haddr⟩ := hz
  refine ⟨hreserved, ?_, ?_, ?_⟩
  · rcases hflag with h | h <;> simp [h]
  · rcases hbyte with h | h <;> simp [h]
  · rcases haddr with h | h <;> simp [h]

/-- Settles O2: the fields a decoded request does not use are 0, so its encoding's fields are all those of the word. -/
theorem headerWordHasOneMeaning : Obligations.HeaderWordHasOneMeaning := by
  intro r i h
  obtain ⟨hreq, hz⟩ := decodeRequest_eq_ok_iff.mp h
  obtain ⟨hreserved, hflag, hbyte, haddr⟩ := fields_of_unusedZero hz
  rw [requestFor_header_of_requestOf hreq, hflag, hbyte, haddr, mkHeader_of_fields hreserved]

/-! ### Wire frames: decoding, then encoding -/

/-- The command an opcode byte names has that byte (R56). -/
theorem opcode_of_commandOf {cfg : Config} {op : Byte} {c : Command} (h : commandOf cfg op = some c) : cfg.opcode c = op :=
  beq_iff_eq.mp (List.find?_some (p := fun c => cfg.opcode c == op) h)

/-- The address bytes of two joined bytes are the two, high byte first (R39). -/
theorem addrBytes_append (hi lo : Byte) : addrBytes (hi ++ lo) = [hi, lo] := by
  have hhi : (hi ++ lo : Addr).extractLsb' 8 8 = hi := BitVec.extractLsb'_append_eq_left
  have hlo : (hi ++ lo : Addr).extractLsb' 0 8 = lo := BitVec.extractLsb'_append_eq_right
  rw [addrBytes, hhi, hlo]

/-- The frame of a wire command read from parameter bytes is the command's opcode and those bytes (R53, R58). -/
theorem frameOf_of_wireOf {cfg : Config} {c : Command} {ps : List Byte} {i : Instr} (h : wireOf cfg c ps = some i) :
    frameOf cfg i = cfg.opcode c :: ps := by
  unfold wireOf at h
  split at h
  case h_1 =>
    split_ifs at h with hd
    cases h
    rw [hd]
    rfl
  case h_4 =>
    split_ifs at h
    cases h
    rfl
  case h_7 =>
    cases h
    rw [frameOf, addrBytes_append]
    rfl
  case h_8 =>
    split_ifs at h with hd
    cases h
    rw [frameOf, addrBytes_append, ← hd]
    rfl
  case h_9 => cases h
  all_goals
    cases h
    rfl

/-- Settles O3: a frame that decodes is its opcode, which names a command, and that command's parameters. -/
theorem frameHasOneMeaning : Obligations.FrameHasOneMeaning := by
  intro cfg bytes i h
  unfold decodeFrame at h
  split at h
  · cases h
  · split at h
    · cases h
    · rename_i hc
      split at h
      · cases h
      · rename_i hw
        cases h
        rw [frameOf_of_wireOf hw, opcode_of_commandOf hc]

/-! ### Headers that do not decode -/

/-- A header names no request exactly when its code is not one of 0x1 to 0xD (R64, R66). -/
theorem requestOf_eq_none_iff (r : Request) : requestOf r = none ↔ ¬ (0x1 ≤ hdrCode r.header ∧ hdrCode r.header ≤ 0xD) := by
  unfold requestOf
  split
  case h_14 =>
    simp only [imp_false, true_iff] at *
    omega
  all_goals simp [*]

/-- Which codes use the flag, the byte and the address field (R64, R65). -/
theorem uses_of_requestOf {r : Request} {i : Instr} (h : requestOf r = some i) :
    (i.usesFlag = true ↔ hdrCode r.header = 0x1 ∨ hdrCode r.header = 0x2 ∨ hdrCode r.header = 0x4) ∧
      (i.usesByte = true ↔ hdrCode r.header = 0x3 ∨ hdrCode r.header = 0xC) ∧
      (i.usesAddr = true ↔ hdrCode r.header = 0x7 ∨ hdrCode r.header = 0x8 ∨ hdrCode r.header = 0xD) := by
  unfold requestOf at h
  split at h <;> cases h
  all_goals simp [*, Instr.usesFlag, Instr.usesByte, Instr.usesAddr]

/-- At Idle a request that does not decode is refused with the decoder's reason, and nothing else changes (R115, R122). -/
theorem step_of_decodeRequest_error {s : State} {r : Request} {rest : List HostMove} {e : DecodeError} (hidle : s.seq = .idle)
    (hq : s.hostQueue = .present r :: rest) (h : decodeRequest r = .error e) :
    step s = .next { s with hostQueue := rest, responses := s.responses ++ [.refused (decodeRefusal e)] } := by
  rw [step_of_idle hidle, hostStep_of_present hq, takeRequest, h]
  simp only [refuse, respond, ← hidle]

/-- Settles O5: an unassigned code names no request. -/
theorem unassignedCodesAreRefused : Obligations.UnassignedCodesAreRefused := by
  intro s r rest hidle hq hcode
  have hnone : requestOf r = none := by
    rw [requestOf_eq_none_iff]
    omega
  exact step_of_decodeRequest_error hidle hq (by rw [decodeRequest, hnone])

/-- Settles O6: an assigned code names a request, and the field that is not 0 is one that request does not use. -/
theorem malformedHeadersAreRefused : Obligations.MalformedHeadersAreRefused := by
  intro s r rest hidle hq hcode hbad
  cases hreq : requestOf r with
  | none => exact absurd hcode ((requestOf_eq_none_iff r).mp hreq)
  | some i =>
    obtain ⟨hflag, hbyte, haddr⟩ := uses_of_requestOf hreq
    have hz : ¬ unusedZero i r.header = true := by
      intro hz
      obtain ⟨hr0, hf0, hb0, ha0⟩ := fields_of_unusedZero hz
      rcases hbad with hr | ⟨hf, hne⟩ | ⟨hb, hne⟩ | ⟨ha, hne⟩
      · exact hr hr0
      · simp [hf, hflag, hne] at hf0
      · exact hb (by simpa [hbyte, hne] using hb0.symm)
      · exact ha (by simpa [haddr, hne] using ha0.symm)
    exact step_of_decodeRequest_error hidle hq (by rw [decodeRequest, hreq]; exact if_neg hz)

/-- Settles O4: each word is decoded by evaluation. -/
theorem tableWordsDecode : Obligations.TableWordsDecode := by
  unfold Obligations.TableWordsDecode
  decide

/-! ### Wire commands as the one frame SEQ names -/

/-- At the one frame of a single-frame request, WREN ends it. -/
theorem goOnAfterWren_of_command {s : State} {bytes : List Byte} (h : s.seq = .command bytes) : goOnAfterWren s = finish s := by
  simp only [goOnAfterWren, h]

/-- At the one frame of a single-frame request, an erase ends it. -/
theorem goOnAfterErase_of_command {s : State} {bytes : List Byte} (h : s.seq = .command bytes) : goOnAfterErase s = finish s := by
  simp only [goOnAfterErase, h]

/-- A command frame that stands behind no write-enable and is neither RDSR nor WREN clears WE_ARMED (R92). -/
theorem sendCommand_of_disarming {c : Command} (hc : c = .wrdis ∨ c = .wrsr ∨ c = .read) {bytes : List Byte} (hb : bytes ≠ [])
    (s : State) :
    sendCommand c bytes s = (s.bytesIn bytes.length, { s.afterFrame bytes with weArmed := false }) := by
  rw [sendCommand_eq c bytes s hb]
  rcases hc with rfl | rfl | rfl <;> simp [needsWriteEnable, State.afterFrame]

/-- A command frame that must stand behind a write-enable checks that obligation and clears WE_ARMED (R26, R92). -/
theorem sendCommand_of_needsWriteEnable {c : Command} (hc : needsWriteEnable c = true) {bytes : List Byte} (hb : bytes ≠ [])
    (s : State) :
    sendCommand c bytes s =
      (s.bytesIn bytes.length,
        { s.afterFrame bytes with
          weArmed := false, obligationViolated := s.obligationViolated || (!s.weArmed || s.lastRdyn) }) := by
  rw [sendCommand_eq c bytes s hb, hc]
  cases c <;> cases hc <;> simp [State.afterFrame]

/-- RDSR alone: its frame, LAST_RDYN, the status as the response (R87, R92). -/
theorem issueRdsr_of_command {s : State} {bytes : List Byte} (h : s.seq = .command bytes) :
    issueRdsr s =
      { s.afterFrame [s.cfg.opRdsr, s.cfg.dummy] with
        lastRdyn := busy (s.byteIn 1), responses := s.responses ++ [.status (s.byteIn 1)], seq := .idle } := by
  rw [issueRdsr, readStatusThen_eq, goOnAfterStatus_of_command]
  · rfl
  · exact h

/-- WREN alone: its frame, no ghost update (R92). -/
theorem issueWren_of_command {s : State} {bytes : List Byte} (h : s.seq = .command bytes) :
    issueWren s = { s.afterFrame [s.cfg.opWren] with responses := s.responses ++ [.done], seq := .idle } := by
  rw [issueWren, sendWren_eq, goOnAfterWren_of_command]
  · rfl
  · exact h

/-- WRDIS: its frame, WE_ARMED cleared (R88, R92). -/
theorem issueWrdis_eq (s : State) :
    issueWrdis s =
      { s.afterFrame [s.cfg.opWrdis] with weArmed := false, responses := s.responses ++ [.done], seq := .idle } := by
  rw [issueWrdis, sendCommand_of_disarming (by simp) (frameOf_ne_nil s.cfg .opWrdis rfl)]
  rfl

/-- WRSR: its frame, WE_ARMED cleared (R86, R92). -/
theorem issueWrsr_eq (flag : Byte) (s : State) :
    issueWrsr flag s =
      { s.afterFrame [s.cfg.opWrsr, flag] with weArmed := false, responses := s.responses ++ [.done], seq := .idle } := by
  rw [issueWrsr, sendCommand_of_disarming (by simp) (frameOf_ne_nil s.cfg (.opWrsr flag) rfl)]
  rfl

/-- An erase frame that no erase request is behind: the frame, the obligation check, WE_ARMED cleared (R26, R92). -/
theorem goOnAfterErase_sendCommand {s : State} {bytes : List Byte} (h : s.seq = .command bytes) {c : Command}
    (hc : needsWriteEnable c = true) {f : List Byte} (hf : f ≠ []) :
    goOnAfterErase (sendCommand c f s).2 =
      { s.afterFrame f with
        weArmed := false, obligationViolated := s.obligationViolated || (!s.weArmed || s.lastRdyn)
        responses := s.responses ++ [.done], seq := .idle } := by
  rw [goOnAfterErase_of_command ((sendCommand_seq c f s hf).trans h), sendCommand_of_needsWriteEnable hc hf]
  rfl

/-- PROGRAM alone: its frame, the obligation check, WE_ARMED cleared (R26, R90, R92). -/
theorem issueProgram_of_command (addr : Addr) (data : List Byte) {s : State} {bytes : List Byte} (h : s.seq = .command bytes) :
    issueProgram addr data s =
      { s.afterFrame ([s.cfg.opProgram, addr.extractLsb' 8 8, addr.extractLsb' 0 8] ++ data) with
        weArmed := false, obligationViolated := s.obligationViolated || (!s.weArmed || s.lastRdyn)
        responses := s.responses ++ [.done], seq := .idle } := by
  rw [issueProgram, sendProgram_eq, goOnAfterProgram_of_command]
  · rfl
  · exact h

/-- READ: its frame, WE_ARMED cleared, the bytes received after the header as the response (R89, R92). -/
theorem issueRead_eq (addr : Addr) (count : Nat) (s : State) :
    issueRead addr count s =
      { s.afterFrame ([s.cfg.opRead, addr.extractLsb' 8 8, addr.extractLsb' 0 8] ++ List.replicate count s.cfg.dummy) with
        weArmed := false, responses := s.responses ++ [.bytes ((List.range count).map fun k => s.byteIn (3 + k))], seq := .idle } := by
  have hlen : (frameOf s.cfg (.opRead addr count)).length = count + 3 := by simp [frameOf, addrBytes]
  rw [issueRead, sendCommand_of_disarming (by simp) (frameOf_ne_nil s.cfg (.opRead addr count) rfl), hlen, readData_bytesIn]
  rfl

/-- A meaning behind the checks, on a state that passes them, is its body (R114). -/
theorem next_commandChecks_of_ready {s t : State} (hready : s.Ready) {body : State → State} (h : body s = t) :
    (.next (commandChecks body s) : Host.Outcome State Fault Refusal) = .next t := by
  rw [commandChecks_ready hready, h]

/-- Settles O26: past the checks each command is its frame with the ghost updates of R92, and at `command` the response follows. -/
theorem wireCommandsSendTheirFrames : Obligations.WireCommandsSendTheirFrames := by
  intro s bytes hready hseq
  refine ⟨?_, ?_, ?_, fun flag => ?_, fun page => ?_, ?_, fun addr data => ?_, fun addr count => ?_⟩
  · exact next_commandChecks_of_ready hready (issueRdsr_of_command hseq)
  · exact next_commandChecks_of_ready hready (issueWren_of_command hseq)
  · exact next_commandChecks_of_ready hready (issueWrdis_eq s)
  · exact next_commandChecks_of_ready hready (issueWrsr_eq flag s)
  · exact next_commandChecks_of_ready hready (goOnAfterErase_sendCommand hseq rfl (frameOf_ne_nil s.cfg (.opErasePage page) rfl))
  · exact next_commandChecks_of_ready hready (goOnAfterErase_sendCommand hseq rfl (frameOf_ne_nil s.cfg .opEraseAll rfl))
  · exact next_commandChecks_of_ready hready (issueProgram_of_command addr data hseq)
  · exact next_commandChecks_of_ready hready (issueRead_eq addr count s)

/-! ### What a device reads from a frame request -/

/-- A frame whose first byte is one of the eight opcodes (R62). -/
def BeginsWithOpcode (cfg : Config) (f : List Byte) : Prop := ∃ op, f.head? = some op ∧ op ∈ cfg.opcodes

theorem frameOf_beginsWithOpcode (cfg : Config) {i : Instr} (h : i.isWire = true) : BeginsWithOpcode cfg (frameOf cfg i) := by
  cases i <;> cases h <;> exact ⟨_, rfl, by simp [Config.opcodes]⟩

/-- A device between two frames that has read none but command frames (R52, R62). -/
structure Observer.BetweenCommands (cfg : Config) (o : Observer) : Prop where
  csnReleased : o.csn = !cfg.csActiveLevel
  sckLow : o.sck = false
  opcodesOnly : ∀ f ∈ o.frames, BeginsWithOpcode cfg f

/-- One more command frame leaves a device between frames (R52, R62). -/
theorem Observer.BetweenCommands.see_frame {cfg : Config} {o : Observer} (h : o.BetweenCommands cfg) {f : List Byte}
    (hne : f ≠ []) (hf : BeginsWithOpcode cfg f) (l : Nat → Level) :
    ((frameEvents cfg f l).foldl (Observer.see cfg) o).BetweenCommands cfg := by
  rw [Machine.see_frame cfg f hne l o h.csnReleased h.sckLow]
  refine ⟨h.csnReleased, h.sckLow, fun g hg => ?_⟩
  rcases List.mem_append.mp hg with hg | hg
  · exact h.opcodesOnly g hg
  · rw [List.mem_singleton.mp hg]
    exact hf

/-- A device on the lines at `s`, before anything more is driven. -/
def State.observer (s : State) : Observer := { sck := s.sckQ, mosi := s.mosiQ, csn := s.csnQ, bits := [], frames := [] }

/-- `t` comes after `s` with the events of command frames appended (R27, R62). -/
def State.AppendsCommands (s t : State) : Prop :=
  t.cfg = s.cfg ∧ ∃ ev, t.trace = s.trace ++ ev ∧ (ev.foldl (Observer.see s.cfg) s.observer).BetweenCommands s.cfg

/-- `t` comes after `s` with events appended in which a device reads none but command frames (R62). -/
def State.AppendsOpcodesOnly (s t : State) : Prop :=
  ∃ ev, t.trace = s.trace ++ ev ∧ ∀ f ∈ framesSeen s.cfg s.sckQ s.mosiQ s.csnQ ev, BeginsWithOpcode s.cfg f

theorem State.AppendsCommands.appendsOpcodesOnly {s t : State} (h : s.AppendsCommands t) : s.AppendsOpcodesOnly t := by
  obtain ⟨-, ev, htrace, hseen⟩ := h
  exact ⟨ev, htrace, hseen.opcodesOnly⟩

/-- No events are no frames. -/
theorem appendsOpcodesOnly_of_trace_eq {s t : State} (h : t.trace = s.trace) : s.AppendsOpcodesOnly t :=
  ⟨[], by rw [h, List.append_nil], nofun⟩

/-- A block that may start a frame has its lines between frames (R20, R77). -/
theorem State.AppendsCommands.refl {s : State} (hready : s.Ready) (hpins : s.PinsInv) : s.AppendsCommands s :=
  ⟨rfl, [], (List.append_nil _).symm, csnQ_of_ready hready hpins, hpins.sckLow hready.2.1, nofun⟩

theorem State.AppendsCommands.sendCommand {s t : State} (h : s.AppendsCommands t) (c : Command) {i : Instr} (hi : i.isWire = true) :
    s.AppendsCommands (sendCommand c (frameOf t.cfg i) t).2 := by
  obtain ⟨hcfg, ev, htrace, hseen⟩ := h
  have hne := frameOf_ne_nil t.cfg i hi
  refine ⟨?_, ev ++ frameEvents t.cfg (frameOf t.cfg i) t.level, ?_, ?_⟩
  · rw [sendCommand_eq c _ t hne]
    exact hcfg
  · rw [sendCommand_trace c t hne, htrace, List.append_assoc]
  · rw [hcfg, List.foldl_append]
    exact hseen.see_frame (frameOf_ne_nil s.cfg i hi) (frameOf_beginsWithOpcode s.cfg hi) t.level

/-- Every frame the sequencer sends is a command frame (R62). -/
theorem appendsCommands_seqClosed (s : State) : SeqClosed s.AppendsCommands s.AppendsOpcodesOnly where
  send c _ _ hi h := h.sendCommand c hi
  seq _ _ h := h
  polls _ _ h := h
  arm _ h := h
  respond _ _ _ h := h.appendsOpcodesOnly
  fault _ _ h _ _ := h.appendsOpcodesOnly
  park _ h _ := h.appendsOpcodesOnly

/-- Settles O46: a request that is refused drives nothing, and one that runs sends command frames alone. -/
theorem onlyTheEightOpcodesAreSent : Obligations.OnlyTheEightOpcodesAreSent := by
  intro i s t hpins h hoe hcs hxfer
  exact exec_closed (appendsCommands_seqClosed s) h (fun _ => appendsOpcodesOnly_of_trace_eq rfl)
    (fun en he => absurd he (hoe en)) (fun a he => absurd he (hcs a)) (fun out he => absurd he (hxfer out))
    (fun hready => .refl hready hpins)

end Sys2Proof.Machine
end

section
/-! PROOFS. Family 40_transceiver.md: the three transceiver requests and the checks before them, the pulses and the loopback of an exchange, and
what every step keeps of the sequencer. An exchange is `byteEvents` (`hostXfer_eq`); the sequencer's invariant rests on a frame request
running from a ready state to an end that `SeqClosed` names. -/

namespace Sys2Proof.Machine

/-! ### The sequencer's invariant -/

/-- At Idle, with a fault neither there before nor raised, the sequencer's invariant asks nothing more (R14). -/
theorem seqInv_of_idle {s : State} (hidle : s.seq = .idle) (hfault : s.fault = none) : s.SeqInv where
  position := .inl hidle
  waitReady h := absurd hidle h
  faultDriven h := absurd hfault h
  unresponsiveBounded h := absurd (hfault.symm.trans h) nofun

/-- The sequencer's invariant does not look at the host's side, and is kept where SEQ returns to Idle (R28, R115). -/
theorem refuse_seqInv {s : State} (hs : s.SeqInv) (reason : RefusalReason) (rest : List HostMove) :
    (refuse reason { s with hostQueue := rest }).SeqInv where
  position := .inl rfl
  waitReady h := absurd rfl h
  faultDriven := hs.faultDriven
  unresponsiveBounded := hs.unresponsiveBounded

/-- A command frame on a ready block leaves it ready (R84, R114). -/
theorem sendCommand_ready (c : Command) {bytes : List Byte} (hb : bytes ≠ []) {s : State} (h : s.Ready) :
    (sendCommand c bytes s).2.Ready := by
  obtain ⟨hfault, hoe, -⟩ := h
  rw [sendCommand_eq c bytes s hb]
  exact ⟨hfault, hoe, rfl⟩

/-- A frame request keeps the block ready up to its end: a result, a fault taken after a frame, or a busy wait (R84, R124). -/
theorem ready_seqClosed : SeqClosed State.Ready State.SeqInv where
  send c i s hi h := sendCommand_ready c (frameOf_ne_nil s.cfg i hi) h
  seq _ _ h := h
  polls _ _ h := h
  arm _ h := h
  respond _ _ _ h := seqInv_of_idle rfl h.1
  fault _ _ h hend hbounded :=
    { position := .inl rfl
      waitReady := fun hne => absurd rfl hne
      faultDriven := fun _ => ⟨h.2.1, hend.2.2⟩
      unresponsiveBounded := fun hk => hbounded (Option.some.inj hk) }
  park _ h hw :=
    { position := .inr hw
      waitReady := fun _ => h
      faultDriven := fun hf => absurd h.1 hf
      unresponsiveBounded := fun hf => absurd (h.1.symm.trans hf) nofun }

/-- A transceiver request runs with no fault and raises none, so any of the three ends in the invariant (R114, R116). -/
theorem exec_seqInv {i : Instr} {s t : State} (hs : s.SeqInv) (h : exec i s = .next t) : t.SeqInv := by
  refine exec_closed ready_seqClosed h (fun r => refuse_seqInv hs r s.hostQueue) (fun en _ hf => ?_)
    (fun a _ hf _ => seqInv_of_idle rfl hf) (fun out _ hf _ => ?_) id
  · cases en <;> exact seqInv_of_idle rfl hf
  · rw [hostXfer_eq]
    exact seqInv_of_idle rfl hf

/-- Settles O44: a step waits, resets, refuses a request or runs an instruction, and each of the four keeps the invariant. -/
theorem stepKeepsSeqInv : Obligations.StepKeepsSeqInv := by
  intro s t hs h
  refine step_closed h (fun _ _ => hs) (fun _ _ _ => seqInv_of_idle rfl rfl) (fun r rest => refuse_seqInv hs r rest)
    (fun i rest he => exec_seqInv (s := { s with hostQueue := rest }) ?_ he)
  exact ⟨hs.position, hs.waitReady, hs.faultDriven, hs.unresponsiveBounded⟩

/-! ### The checks of the transceiver requests -/

theorem sessionCheck_of_fault {s : State} (h : s.fault ≠ none) (body : State → State) :
    sessionCheck body s = refuse .sessionAborted s :=
  if_pos (Option.isSome_iff_ne_none.mpr h)

theorem sessionCheck_of_no_fault {s : State} (h : s.fault = none) (body : State → State) : sessionCheck body s = body s := by
  simp [sessionCheck, h]

/-- A fault is found before a released bus (R114). -/
theorem busChecks_of_fault {s : State} (h : s.fault ≠ none) (body : State → State) :
    busChecks body s = refuse .sessionAborted s :=
  sessionCheck_of_fault h _

theorem busChecks_of_released {s : State} (hf : s.fault = none) (hoe : s.oe = false) (body : State → State) :
    busChecks body s = refuse .busNotAcquired s := by
  simp [busChecks, sessionCheck_of_no_fault hf, hoe]

theorem busChecks_of_driven {s : State} (hf : s.fault = none) (hoe : s.oe = true) (body : State → State) :
    busChecks body s = body s := by
  simp [busChecks, sessionCheck_of_no_fault hf, hoe]

/-- An instruction whose meaning is a refusal is refused by that reason (R115). -/
theorem refusedBy_of_refuse {i : Instr} {s u : State} {reason : RefusalReason} (hexec : exec i s = .next u)
    (h : u = refuse reason s) : s.RefusedBy i reason := by
  rw [State.RefusedBy, hexec, h]
  rfl

/-! ### XFER -/

/-- XFER on a driven bus, in closed form (R74, R75, R80). -/
theorem exec_xfer_of_driven (out : Byte) {s : State} (hf : s.fault = none) (hoe : s.oe = true) :
    exec (.xfer out) s = .next
      { s.afterByte out with weArmed := false, responses := s.responses ++ [.byte (s.byteIn 0)], seq := .idle } := by
  rw [← hostXfer_eq, ← busChecks_of_driven hf hoe (hostXfer out)]
  rfl

/-- Settles O17: past its two checks XFER is one exchange. -/
theorem xferExchangesOneByte : Obligations.XferExchangesOneByte := by
  intro out s
  refine ⟨decodeRequest_requestFor (i := .xfer out) rfl, fun hf => ?_, fun hf hoe => ?_, fun hf hoe => exec_xfer_of_driven out hf hoe⟩
  · exact refusedBy_of_refuse rfl (busChecks_of_fault hf _)
  · exact refusedBy_of_refuse rfl (busChecks_of_released hf hoe _)

/-! ### The pulses of an exchange -/

/-- Each bit of an exchange takes SCK up once and down once (R75, R78). -/
theorem sckEdges_byteEvents (out : Byte) (l : Nat → Level) : sckEdges false (byteEvents out l) = (8, 8) := rfl

/-- Settles O18: an exchange adds `byteEvents`, which has eight pulses, and XFER adds one exchange. -/
theorem xferMakesEightClockPulses : Obligations.XferMakesEightClockPulses := by
  refine ⟨fun out s _ => ?_, fun out s hf hoe _ => ?_⟩
  · rw [xferByte_eq]
    exact ⟨_, rfl, sckEdges_byteEvents .., mosiChangesWhileLow_byteEvents .., rfl⟩
  · exact ⟨_, _, exec_xfer_of_driven out hf hoe, rfl, sckEdges_byteEvents .., mosiChangesWhileLow_byteEvents .., rfl,
      byteEvents_countP_isDelay ..⟩

/-! ### Loopback -/

/-- Each sample of an exchange follows the drive of the same bit, so MISO wired to MOSI gives the byte's bits in order (R75, R81). -/
theorem samples_of_samplesEchoMosi {start : Level} {out : Byte} {l : Nat → Level}
    (h : samplesEchoMosi start (byteEvents out l) = true) : samplesOf (byteEvents out l) = wireBits out := by
  rw [samplesOf_byteEvents]
  simpa [byteEvents, bitEvents, samplesEchoMosi, wireBits, List.range_succ] using h

/-- The byte whose bits are the byte's own bits, bit 7 first, is that byte (R80). -/
theorem byteOf_wireBits (out : Byte) : byteOf (fun k => out.getLsbD (7 - k)) = out := by
  revert out
  decide

/-- Eight levels that are the bits of a byte make that byte (R80). -/
theorem byteOf_eq_of_map_eq_wireBits {l : Nat → Level} {out : Byte} (h : (List.range 8).map l = wireBits out) : byteOf l = out := by
  rw [← byteOf_wireBits out]
  simp only [wireBits, List.range_succ, List.range_zero, List.nil_append, List.map_cons, List.map_nil, List.cons_append,
    List.cons.injEq, and_true] at h
  obtain ⟨h0, h1, h2, h3, h4, h5, h6, h7⟩ := h
  simp only [byteOf, h0, h1, h2, h3, h4, h5, h6, h7]

/-- Settles O19: the eight samples are the bits of the byte sent, and the byte received is made of the eight samples. -/
theorem loopbackReturnsTheByte : Obligations.LoopbackReturnsTheByte := by
  intro out s hf hoe
  refine ⟨_, _, exec_xfer_of_driven out hf hoe, rfl, fun hecho => ?_⟩
  have hsamples := samples_of_samplesEchoMosi hecho
  have hbyte : s.byteIn 0 = out := by
    rw [samplesOf_byteEvents] at hsamples
    simpa [State.byteIn] using byteOf_eq_of_map_eq_wireBits hsamples
  exact ⟨hsamples, by rw [hbyte]⟩

/-! ### Wire commands -/

/-- Settles O14: the meaning of every wire command stands behind `command_checks()`. -/
theorem wireCommandsAreChecked : Obligations.WireCommandsAreChecked := by
  intro i s reason hwire h
  have hrefuse (body : State → State) (hexec : exec i s = .next (commandChecks body s)) : s.RefusedBy i reason :=
    refusedBy_of_refuse hexec (commandChecks_refuse h body)
  cases i
  case opRdsr | opWren | opWrdis | opWrsr | opErasePage | opEraseAll | opProgram | opRead => exact hrefuse _ rfl
  all_goals cases hwire

/-! ### SET_OE and SET_CS -/

/-- All that SET_OE 1 does to the lines (R69, R70). -/
theorem enableBus_eq (s : State) :
    enableBus s =
      { s with
        sckQ := false, mosiQ := false, csnQ := !s.cfg.csActiveLevel, oe := true, csAsserted := false
        trace := s.trace ++ [.configure .sck .output (some false), .configure .mosi .output (some false),
          .configure .csn .output (some (!s.cfg.csActiveLevel)), .configure .miso .input none] } := by
  simp [enableBus, configureOut, configureIn, emit, setLatch, csLevel]

/-- All that SET_OE 0 does to the lines; the latches stay (R69, R71; log 12). -/
theorem releaseBus_eq (s : State) :
    releaseBus s =
      { s with
        oe := false, csAsserted := false
        trace := s.trace ++ [.configure .sck .input none, .configure .mosi .input none, .configure .csn .input none,
          .configure .miso .input none] } := by
  simp [releaseBus, configureIn, emit]

/-- All that a chip-select write does (R72, R73). -/
theorem csWrite_eq (a : Bool) (s : State) :
    csWrite a s =
      { s with
        csnQ := csLevel s.cfg a, csAsserted := a, trace := s.trace ++ [.drive .csn (csLevel s.cfg a), .delay .cs] } := by
  simp [csWrite, drive, settle, emit, setLatch]

/-- SET_OE with no fault switches the bus and ends (R69). -/
theorem exec_setOe_of_no_fault (en : Bool) {s : State} (hf : s.fault = none) :
    exec (.setOe en) s = .next (finish (if en then enableBus s else releaseBus s)) := by
  rw [← hostSetOe_eq, ← sessionCheck_of_no_fault hf (hostSetOe en)]
  rfl

/-- SET_CS on a driven bus writes chip-select and ends (R72). -/
theorem exec_setCs_of_driven (a : Bool) {s : State} (hf : s.fault = none) (hoe : s.oe = true) :
    exec (.setCs a) s = .next (finish (csWrite a s)) := by
  rw [← hostSetCs_eq, ← busChecks_of_driven hf hoe (hostSetCs a)]
  rfl

/-- Settles O15: past its one check SET_OE acquires the bus or releases it. -/
theorem setOeSwitchesTheBus : Obligations.SetOeSwitchesTheBus := by
  intro en s
  refine ⟨decodeRequest_requestFor (i := .setOe en) rfl, fun hf => ?_, fun hf => ?_⟩
  · exact refusedBy_of_refuse rfl (sessionCheck_of_fault hf _)
  · rw [exec_setOe_of_no_fault en hf, enableBus_eq, releaseBus_eq]
    cases en <;> rfl

/-- Settles O16: past its two checks SET_CS is one chip-select write. -/
theorem setCsWritesChipSelect : Obligations.SetCsWritesChipSelect := by
  intro a s
  refine ⟨decodeRequest_requestFor (i := .setCs a) rfl, fun hf => ?_, fun hf hoe => ?_, fun hf hoe => ?_⟩
  · exact refusedBy_of_refuse rfl (busChecks_of_fault hf _)
  · exact refusedBy_of_refuse rfl (busChecks_of_released hf hoe _)
  · rw [exec_setCs_of_driven a hf hoe, csWrite_eq]
    rfl

end Sys2Proof.Machine
end

section
/-! PROOFS. Family 41_flash_commands.md: the single-frame requests and the erases. A request behind `command_checks()` is settled by its body on a
ready state (`request_spec_of_commandChecks`). For a single-frame request the body is the wire command at the request's one frame; for an erase it is the erase
frame and the first poll of the busy wait (`eraseFrame_then_firstPoll`). -/

namespace Sys2Proof.Machine

/-! ### Requests behind the checks -/

/-- A request whose meaning stands behind `command_checks()`: its encoding decodes to it, a failing check refuses it, and on a ready state it
does what its body does (R64, R114, R115). -/
theorem request_spec_of_commandChecks {i : Instr} {s t : State} {body : State → State} (hrequest : i.isWire = false)
    (hexec : exec i s = .next (commandChecks body s)) (hbody : body s = t) :
    decodeRequest (requestFor i) = .ok i ∧
      (∀ reason, s.checkRefusal = some reason → s.RefusedBy i reason) ∧ (s.Ready → exec i s = .next t) := by
  refine ⟨decodeRequest_requestFor hrequest, fun reason hreason => ?_, fun hready => ?_⟩
  · exact refusedBy_of_refuse hexec (commandChecks_refuse hreason body)
  · rw [hexec]
    exact next_commandChecks_of_ready hready hbody

/-! ### Single-frame requests -/

/-- Settles O20: the body is the WRSR frame with the flag byte of the region. -/
theorem selectRegionSendsItsFrame : Obligations.SelectRegionSendsItsFrame := fun info s =>
  request_spec_of_commandChecks (i := .selectRegion info) rfl rfl
    (issueWrsr_eq (flagByte s.cfg info) (atCommand (.opWrsr (flagByte s.cfg info)) s))

/-- Settles O21: the body is the RDSR frame, at a position where its status is the response. -/
theorem readStatusReturnsTheStatus : Obligations.ReadStatusReturnsTheStatus := fun s =>
  request_spec_of_commandChecks (i := .readStatus) rfl rfl (issueRdsr_of_command (s := atCommand .opRdsr s) rfl)

/-- Settles O22: the body is the WRDIS frame. -/
theorem writeDisableSendsItsFrame : Obligations.WriteDisableSendsItsFrame := fun s =>
  request_spec_of_commandChecks (i := .writeDisable) rfl rfl (issueWrdis_eq (atCommand .opWrdis s))

/-- Settles O23: the body is the READ frame, whose bytes after the header are the response. -/
theorem readReturnsTheBytes : Obligations.ReadReturnsTheBytes := fun addr count s =>
  request_spec_of_commandChecks (i := .read addr count) rfl rfl (issueRead_eq addr count (atCommand (.opRead addr count) s))

/-- Settles O24: the body is the PROGRAM frame, at a position where no chunk follows it. -/
theorem programSendsItsFrame : Obligations.ProgramSendsItsFrame := fun addr data s =>
  request_spec_of_commandChecks (i := .program addr data) rfl rfl
    (issueProgram_of_command addr data (s := atCommand (.opProgram addr data) s) rfl)

/-! ### Erases -/

/-- A request's last busy wait, from its start: one status read, which is its first poll (R96, R98). -/
theorem waitReadyThen_finish (pos : Seq) (s : State) :
    waitReadyThen pos finish s =
      State.afterLastPoll
        { s.afterFrame [s.cfg.opRdsr, s.cfg.dummy] with polls := 1, lastRdyn := busy (s.byteIn 1), seq := pos } (s.byteIn 1) := by
  rw [waitReadyThen, readStatusThen_eq, afterPoll_finish]
  rfl

/-- At `Erase` what follows the erase frame is the busy wait (R101, R102). -/
theorem goOnAfterErase_of_erase {s : State} {e : EraseKind} (h : s.seq = .erase e) :
    goOnAfterErase s = waitReadyThen (.poll (.erase e)) finish s := by
  simp only [goOnAfterErase, h]

/-- An erase frame at `Erase`: the obligation check, WE_ARMED cleared, then the first poll, whose status is the second byte after the frame
(R26, R92, R96, R101, R102). -/
theorem eraseFrame_then_firstPoll {s : State} {e : EraseKind} (h : s.seq = .erase e) {c : Command} (hc : needsWriteEnable c = true)
    {f : List Byte} (hf : f ≠ []) :
    goOnAfterErase (sendCommand c f s).2 =
      State.afterLastPoll
        { s.afterFrames [f, [s.cfg.opRdsr, s.cfg.dummy]] with
          polls := 1, weArmed := false, obligationViolated := s.obligationViolated || (!s.weArmed || s.lastRdyn)
          lastRdyn := busy (s.byteIn (f.length + 1)), seq := .poll (.erase e) } (s.byteIn (f.length + 1)) := by
  have hstatus : (sendCommand c f s).2.byteIn 1 = s.byteIn (f.length + 1) := by
    rw [sendCommand_of_needsWriteEnable hc hf]
    exact byteIn_congr rfl rfl 1
  rw [goOnAfterErase_of_erase ((sendCommand_seq c f s hf).trans h), waitReadyThen_finish, hstatus,
    sendCommand_of_needsWriteEnable hc hf]
  rfl

/-- Settles O34: the body is the ERASE_ALL frame of one byte at `Erase`, then its wait. -/
theorem eraseAllSendsAndWaits : Obligations.EraseAllSendsAndWaits := fun s =>
  request_spec_of_commandChecks (i := .eraseAll) rfl rfl
    (eraseFrame_then_firstPoll (s := { s with seq := .erase .all }) rfl rfl (frameOf_ne_nil s.cfg .opEraseAll rfl))

/-- Settles O35: the body is the ERASE_PAGE frame of two bytes at `Erase`, then its wait. -/
theorem erasePageSendsAndWaits : Obligations.ErasePageSendsAndWaits := fun page s =>
  request_spec_of_commandChecks (i := .erasePage page) rfl rfl
    (eraseFrame_then_firstPoll (s := { s with seq := .erase (.page page) }) rfl rfl (frameOf_ne_nil s.cfg (.opErasePage page) rfl))

end Sys2Proof.Machine
end

section
/-! PROOFS. Family 42_busy_we_sequencer.md, the busy wait. A step in any busy wait is one status read and what its status decides (`step_of_wait`,
`issueRdsr_of_busy`); n busy polls in a row have a closed form (`State.afterBusyPolls`), from which one more poll ends the wait, exhausts
its bound or goes on. A WAIT_READY request's steps are those of its wait with no poll counted (`step_of_waitReady`). -/

namespace Sys2Proof.Machine

/-! ### Frames one after the other: what they leave, their events, and what a device reads -/

/-- What one frame leaves, several leave. -/
theorem afterFrames_eq_of_afterFrame {α : Type} (f : State → α) (hf : ∀ bytes s, f (s.afterFrame bytes) = f s) (fs : List (List Byte))
    (s : State) : f (s.afterFrames fs) = f s := by
  induction fs generalizing s with
  | nil => rfl
  | cons g gs ih => rw [afterFrames_cons, ih, hf]

@[simp] theorem afterFrames_cfg (fs : List (List Byte)) (s : State) : (s.afterFrames fs).cfg = s.cfg :=
  afterFrames_eq_of_afterFrame State.cfg afterFrame_cfg fs s
@[simp] theorem afterFrames_oe (fs : List (List Byte)) (s : State) : (s.afterFrames fs).oe = s.oe :=
  afterFrames_eq_of_afterFrame State.oe afterFrame_oe fs s
@[simp] theorem afterFrames_fault (fs : List (List Byte)) (s : State) : (s.afterFrames fs).fault = s.fault :=
  afterFrames_eq_of_afterFrame State.fault afterFrame_fault fs s
@[simp] theorem afterFrames_seq (fs : List (List Byte)) (s : State) : (s.afterFrames fs).seq = s.seq :=
  afterFrames_eq_of_afterFrame State.seq afterFrame_seq fs s
@[simp] theorem afterFrames_responses (fs : List (List Byte)) (s : State) : (s.afterFrames fs).responses = s.responses :=
  afterFrames_eq_of_afterFrame State.responses afterFrame_responses fs s
@[simp] theorem afterFrames_hostQueue (fs : List (List Byte)) (s : State) : (s.afterFrames fs).hostQueue = s.hostQueue :=
  afterFrames_eq_of_afterFrame State.hostQueue afterFrame_hostQueue fs s

/-- Frames leave a ready block ready (R84, R114). -/
theorem afterFrames_ready (fs : List (List Byte)) {s : State} (h : s.Ready) : (s.afterFrames fs).Ready := by
  induction fs generalizing s with
  | nil => exact h
  | cons f fs ih => exact ih (s := s.afterFrame f) ⟨h.1, h.2.1, rfl⟩

/-- The events of frames in order, the samples being the levels `l` (R83). -/
def framesEvents (cfg : Config) : List (List Byte) → (Nat → Level) → List Event
  | [], _ => []
  | f :: fs, l => frameEvents cfg f l ++ framesEvents cfg fs fun k => l (8 * f.length + k)

theorem afterFrames_trace (fs : List (List Byte)) (s : State) :
    (s.afterFrames fs).trace = s.trace ++ framesEvents s.cfg fs s.level := by
  induction fs generalizing s with
  | nil => exact (List.append_nil _).symm
  | cons f fs ih =>
    have hlevel : (s.afterFrame f).level = fun k => s.level (8 * f.length + k) := funext (afterFrame_level f s)
    rw [afterFrames_cons, ih, afterFrame_trace, afterFrame_cfg, hlevel, List.append_assoc, framesEvents]

/-- n equal frames of b bytes are n times 4 + 56 b events (R143). -/
theorem framesEvents_replicate_length (cfg : Config) (n : Nat) (f : List Byte) (l : Nat → Level) :
    (framesEvents cfg (List.replicate n f) l).length = (4 + 56 * f.length) * n := by
  induction n generalizing l with
  | zero => rfl
  | succ n ih =>
    rw [List.replicate_succ, framesEvents, List.length_append, frameEvents_length, ih]
    ring

/-- A device between frames adds the frames it is sent to those it has read (R38, R52). -/
theorem see_frames (cfg : Config) {fs : List (List Byte)} (hne : ∀ f ∈ fs, f ≠ []) (l : Nat → Level) (o : Observer)
    (hcsn : o.csn = !cfg.csActiveLevel) (hsck : o.sck = false) :
    ((framesEvents cfg fs l).foldl (Observer.see cfg) o).frames = o.frames ++ fs := by
  induction fs generalizing l o with
  | nil => exact (List.append_nil _).symm
  | cons f fs ih =>
    obtain ⟨hf, hfs⟩ := List.forall_mem_cons.mp hne
    have hrest := ih hfs (fun k => l (8 * f.length + k))
      { o with mosi := (f.getLastD 0).getLsbD 0, bits := [], frames := o.frames ++ [f] } hcsn hsck
    rw [framesEvents, List.foldl_append, see_frame cfg f hf l o hcsn hsck, hrest, List.append_assoc, List.singleton_append]

/-- A device on the lines of a block that may start a frame reads frames as they are sent (R38, R52). -/
theorem framesSeen_framesEvents {s : State} (hready : s.Ready) (hpins : s.PinsInv) {fs : List (List Byte)} (hne : ∀ f ∈ fs, f ≠ [])
    (l : Nat → Level) : framesSeen s.cfg s.sckQ s.mosiQ s.csnQ (framesEvents s.cfg fs l) = fs :=
  see_frames s.cfg hne l { sck := s.sckQ, mosi := s.mosiQ, csn := s.csnQ, bits := [], frames := [] } (csnQ_of_ready hready hpins)
    (hpins.sckLow hready.2.1)

/-! ### One poll -/

/-- A busy status decides a poll whatever a ready one would go on with (R96, R98). -/
theorem afterPoll_of_busy {st : Byte} (hst : busy st = true) (k : State → State) (s : State) :
    afterPoll k st s = State.afterLastPoll { s with polls := s.polls + 1 } st := by
  rw [← afterPoll_finish]
  simp only [afterPoll, hst, if_true]

/-- A ready status counts the poll and goes on (R96). -/
theorem afterPoll_of_ready {st : Byte} (hst : busy st = false) (k : State → State) (s : State) :
    afterPoll k st s = k { s with polls := s.polls + 1 } := by
  simp only [afterPoll, hst, Bool.false_eq_true, if_false]

theorem afterLastPoll_of_ready {st : Byte} (hst : busy st = false) (t : State) : t.afterLastPoll st = finish t := by
  rw [State.afterLastPoll, if_pos hst]
  rfl

/-- A busy status that exhausts the bound is a fault (R98, R121). -/
theorem afterLastPoll_of_exhausted {st : Byte} (hst : busy st = true) {t : State} {n : Nat} (hn : t.cfg.pollLimit = some n)
    (hle : n ≤ t.polls) : t.afterLastPoll st = raiseFault .deviceUnresponsive t := by
  simp [State.afterLastPoll, hst, hn, hle, raiseFault, respond]

/-- A busy status within the bound leaves the wait going on (R96, R97). -/
theorem afterLastPoll_of_within_bound {st : Byte} (hst : busy st = true) {t : State}
    (hbound : ∀ n, t.cfg.pollLimit = some n → t.polls < n) : t.afterLastPoll st = t := by
  have hany : (t.cfg.pollLimit.any fun n => decide (n ≤ t.polls)) = false := by
    cases hl : t.cfg.pollLimit with
    | none => rfl
    | some n => simpa using hbound n hl
  simp [State.afterLastPoll, hst, hany]

/-! ### A step in a busy wait -/

/-- At a busy wait the frame to send is a status read (R96). -/
theorem pendingFrame_of_isWait (cfg : Config) {q : Seq} (h : q.isWait = true) : pendingFrame cfg q = some (frameOf cfg .opRdsr) := by
  cases q with
  | poll w => rfl
  | chunk k phase addr data =>
    cases phase with
    | wait => rfl
    | _ => cases h
  | _ => cases h

/-- A step in a busy wait is one status read and what its status decides (R96, R104; log 6). -/
theorem step_of_wait {s : State} (hwf : s.cfg.wf = true) (hready : s.Ready) (hwait : s.seq.isWait = true) :
    step s = .next (issueRdsr s) := by
  rw [step_of_frame (pendingFrame_of_isWait s.cfg hwait), frameStep_of_decodeFrame (decodeFrame_frameOf (Config.wf_nodup hwf) rfl rfl)]
  exact next_commandChecks_of_ready hready rfl

/-- A status read at `Poll`: the poll is counted and its status decides (R96, R98). -/
theorem issueRdsr_at_poll {s : State} {w : Waiter} (h : s.seq = .poll w) :
    issueRdsr s =
      State.afterLastPoll
        { s.afterFrame [s.cfg.opRdsr, s.cfg.dummy] with polls := s.polls + 1, lastRdyn := busy (s.byteIn 1) } (s.byteIn 1) := by
  rw [issueRdsr, readStatusThen_eq, goOnAfterStatus_of_poll, afterPoll_finish]
  · rfl
  · exact h

/-- A status read at a chunk's `Wait` is a poll, which a ready status ends with the chunk's write-enable (R104). -/
theorem issueRdsr_at_chunkWait {s : State} {k : Nat} {addr : Addr} {data : List Byte} (h : s.seq = .chunk k .wait addr data) :
    issueRdsr s = readStatusThen (afterPoll (enableAndSend addr data k (nextChunks addr data k))) s := by
  simp only [issueRdsr, readStatusThen_eq, goOnAfterStatus, afterFrame_seq, h]

/-- A busy status read in any wait, a chunk's included: one more poll, within the bound or exhausting it (R96, R97, R98). -/
theorem issueRdsr_of_busy {s : State} (hwait : s.seq.isWait = true) (hbusy : busy (s.byteIn 1) = true) :
    issueRdsr s =
      State.afterLastPoll { s.afterFrame [s.cfg.opRdsr, s.cfg.dummy] with polls := s.polls + 1, lastRdyn := true } (s.byteIn 1) := by
  cases hseq : s.seq with
  | poll w => rw [issueRdsr_at_poll hseq, hbusy]
  | chunk k phase addr data =>
    cases phase with
    | wait =>
      rw [issueRdsr_at_chunkWait hseq, readStatusThen_eq, afterPoll_of_busy hbusy, hbusy]
      rfl
    | _ => cases hseq ▸ hwait
  | _ => cases hseq ▸ hwait

/-- Settles O28: the body is the first poll of the busy wait. -/
theorem waitReadyPollsOnce : Obligations.WaitReadyPollsOnce := fun s =>
  request_spec_of_commandChecks (i := .waitReady) rfl rfl (waitReadyThen_finish (.poll .waitReady) s)

/-- Settles O29: a step in a wait is one status read, and a busy one decides alike in every wait. -/
theorem busyWaitStepPollsOnceMore : Obligations.BusyWaitStepPollsOnceMore := by
  intro s hwf hready
  refine ⟨fun w hseq => ?_, fun k addr data hseq hbusy => ?_⟩
  · rw [step_of_wait hwf hready (by rw [hseq]; rfl), issueRdsr_at_poll hseq]
  · have hwait : s.seq.isWait = true := by rw [hseq]; rfl
    rw [step_of_wait hwf hready hwait, issueRdsr_of_busy hwait hbusy, State.afterLastPoll, hbusy, if_neg (by decide)]
    rfl

/-! ### Runs -/

/-- A run of m steps and one step from where it ends are a run of m + 1. -/
theorem run_then_step {M : Host.Core} {s t u : M.State} {m : Nat} (h : M.run m s = .next t) (hstep : M.step t = .next u) :
    M.run (m + 1) s = .next u := by
  induction m generalizing s with
  | zero =>
    cases h
    rw [Host.Core.run, hstep]
    rfl
  | succ m ih =>
    rw [Host.Core.run] at h ⊢
    cases hfirst : M.step s with
    | next v =>
      rw [hfirst] at h
      exact ih h
    | fault r => rw [hfirst] at h; cases h
    | refused r => rw [hfirst] at h; cases h

/-- Two states whose steps agree have the same runs of at least one step. -/
theorem run_congr {M : Host.Core} {s t : M.State} (h : M.step s = M.step t) {n : Nat} (hn : 1 ≤ n) : M.run n s = M.run n t := by
  obtain ⟨m, rfl⟩ := Nat.exists_eq_add_of_le' hn
  rw [Host.Core.run, Host.Core.run, h]

/-! ### Busy polls in a row -/

/-- The state of a busy wait after n more polls that found the device busy, in closed form (R96, R97). -/
def State.afterBusyPolls (s : State) (n : Nat) : State :=
  { s.afterFrames (List.replicate n [s.cfg.opRdsr, s.cfg.dummy]) with
    polls := s.polls + n, lastRdyn := s.lastRdyn || decide (n ≠ 0) }

@[simp] theorem afterBusyPolls_zero (s : State) : s.afterBusyPolls 0 = s := by simp [State.afterBusyPolls]

@[simp] theorem afterBusyPolls_cfg (s : State) (n : Nat) : (s.afterBusyPolls n).cfg = s.cfg := afterFrames_cfg _ s
@[simp] theorem afterBusyPolls_seq (s : State) (n : Nat) : (s.afterBusyPolls n).seq = s.seq := afterFrames_seq _ s
@[simp] theorem afterBusyPolls_fault (s : State) (n : Nat) : (s.afterBusyPolls n).fault = s.fault := afterFrames_fault _ s
@[simp] theorem afterBusyPolls_oe (s : State) (n : Nat) : (s.afterBusyPolls n).oe = s.oe := afterFrames_oe _ s
@[simp] theorem afterBusyPolls_responses (s : State) (n : Nat) : (s.afterBusyPolls n).responses = s.responses :=
  afterFrames_responses _ s
@[simp] theorem afterBusyPolls_hostQueue (s : State) (n : Nat) : (s.afterBusyPolls n).hostQueue = s.hostQueue :=
  afterFrames_hostQueue _ s
@[simp] theorem afterBusyPolls_polls (s : State) (n : Nat) : (s.afterBusyPolls n).polls = s.polls + n := rfl

theorem afterBusyPolls_trace (s : State) (n : Nat) :
    (s.afterBusyPolls n).trace = s.trace ++ framesEvents s.cfg (List.replicate n [s.cfg.opRdsr, s.cfg.dummy]) s.level :=
  afterFrames_trace _ s

theorem afterBusyPolls_ready {s : State} (h : s.Ready) (n : Nat) : (s.afterBusyPolls n).Ready := afterFrames_ready _ h

/-- Each poll has taken two bytes from the device (R53). -/
@[simp] theorem afterBusyPolls_byteIn (s : State) (n k : Nat) : (s.afterBusyPolls n).byteIn k = s.byteIn (2 * n + k) := by
  have hsum : ((List.replicate n [s.cfg.opRdsr, s.cfg.dummy]).map List.length).sum = 2 * n := by
    simp [List.map_replicate, List.sum_replicate, Nat.mul_comm]
  rw [← hsum]
  exact afterFrames_byteIn _ s k

/-- One more busy poll. -/
theorem afterBusyPolls_succ (s : State) (n : Nat) :
    s.afterBusyPolls (n + 1) =
      { (s.afterBusyPolls n).afterFrame [s.cfg.opRdsr, s.cfg.dummy] with
        polls := (s.afterBusyPolls n).polls + 1, lastRdyn := true } := by
  simp only [State.afterBusyPolls, List.replicate_succ', afterFrames_append, afterFrames_cons, afterFrames_nil, ne_eq,
    Nat.add_eq_zero_iff, one_ne_zero, and_false, not_false_eq_true, decide_true, Bool.or_true]
  rfl

/-- At least one poll leaves the lines as a frame does (R83, R84). -/
theorem afterBusyPolls_frameEnded (s : State) {n : Nat} (h : 1 ≤ n) : (s.afterBusyPolls n).FrameEnded := by
  obtain ⟨m, rfl⟩ := Nat.exists_eq_add_of_le' h
  rw [afterBusyPolls_succ]
  exact ⟨rfl, rfl, rfl⟩

section
variable {s : State} (hwf : s.cfg.wf = true) (hready : s.Ready) (hwait : s.seq.isWait = true)
include hwf hready hwait

/-- The step after n busy polls, if it finds the device busy once more. -/
theorem step_of_afterBusyPolls {n : Nat} (hbusy : busy (s.byteIn (2 * n + 1)) = true) :
    step (s.afterBusyPolls n) = .next ((s.afterBusyPolls (n + 1)).afterLastPoll (s.byteIn (2 * n + 1))) := by
  have hwait' : (s.afterBusyPolls n).seq.isWait = true := by rw [afterBusyPolls_seq]; exact hwait
  have hbusy' : busy ((s.afterBusyPolls n).byteIn 1) = true := by rw [afterBusyPolls_byteIn]; exact hbusy
  rw [step_of_wait (by rw [afterBusyPolls_cfg]; exact hwf) (afterBusyPolls_ready hready n) hwait', issueRdsr_of_busy hwait' hbusy',
    afterBusyPolls_cfg, afterBusyPolls_byteIn, afterBusyPolls_succ]

/-- Busy polls within the bound are as many steps in the same wait (R97; log 6). -/
theorem run_of_busy {n : Nat} (hbound : ∀ L, s.cfg.pollLimit = some L → s.polls + n < L)
    (hbusy : ∀ j, j < n → busy (s.byteIn (2 * j + 1)) = true) :
    Host.Core.run Sys2Proof.core n s = .next (s.afterBusyPolls n) := by
  induction n with
  | zero =>
    rw [afterBusyPolls_zero]
    rfl
  | succ n ih =>
    have hrun := ih (fun L hL => by have := hbound L hL; omega) fun j hj => hbusy j (by omega)
    have hstep := step_of_afterBusyPolls hwf hready hwait (hbusy n (by omega))
    have hparked : (s.afterBusyPolls (n + 1)).afterLastPoll (s.byteIn (2 * n + 1)) = s.afterBusyPolls (n + 1) :=
      afterLastPoll_of_within_bound (hbusy n (by omega)) (by rwa [afterBusyPolls_cfg])
    exact run_then_step hrun (hstep.trans (congrArg _ hparked))

/-- The busy poll that exhausts the bound ends the wait in the fault (R98, R121). -/
theorem run_of_exhausted {m n : Nat} (hlimit : s.cfg.pollLimit = some n) (hm : 1 ≤ m) (hsum : s.polls + m = n)
    (hbusy : ∀ j, j < m → busy (s.byteIn (2 * j + 1)) = true) :
    Host.Core.run Sys2Proof.core m s = .next (raiseFault .deviceUnresponsive (s.afterBusyPolls m)) := by
  obtain ⟨k, rfl⟩ := Nat.exists_eq_add_of_le' hm
  have hrun : Host.Core.run Sys2Proof.core k s = .next (s.afterBusyPolls k) := by
    refine run_of_busy hwf hready hwait (fun L hL => ?_) fun j hj => hbusy j (by omega)
    have hLn : L = n := Option.some.inj (hL.symm.trans hlimit)
    omega
  have hstep := step_of_afterBusyPolls hwf hready hwait (hbusy k (by omega))
  have hfault : (s.afterBusyPolls (k + 1)).afterLastPoll (s.byteIn (2 * k + 1)) =
      raiseFault .deviceUnresponsive (s.afterBusyPolls (k + 1)) :=
    afterLastPoll_of_exhausted (hbusy k (by omega)) (by rwa [afterBusyPolls_cfg]) (by rw [afterBusyPolls_polls]; omega)
  exact run_then_step hrun (hstep.trans (congrArg _ hfault))

end

/-! ### WAIT_READY from its request -/

/-- The wait a WAIT_READY request begins, no poll counted yet (R96). -/
def State.startWait (s : State) (rest : List HostMove) : State := { s with hostQueue := rest, polls := 0, seq := .poll .waitReady }

@[simp] theorem startWait_cfg (s : State) (rest : List HostMove) : (s.startWait rest).cfg = s.cfg := rfl
@[simp] theorem startWait_fault (s : State) (rest : List HostMove) : (s.startWait rest).fault = s.fault := rfl
@[simp] theorem startWait_oe (s : State) (rest : List HostMove) : (s.startWait rest).oe = s.oe := rfl
@[simp] theorem startWait_polls (s : State) (rest : List HostMove) : (s.startWait rest).polls = 0 := rfl
@[simp] theorem startWait_trace (s : State) (rest : List HostMove) : (s.startWait rest).trace = s.trace := rfl
@[simp] theorem startWait_responses (s : State) (rest : List HostMove) : (s.startWait rest).responses = s.responses := rfl
@[simp] theorem startWait_hostQueue (s : State) (rest : List HostMove) : (s.startWait rest).hostQueue = rest := rfl

/-- The step that takes up WAIT_READY is a step in its wait (R96; log 6). -/
theorem step_of_waitReady {s : State} {r : Request} {rest : List HostMove} (hwf : s.cfg.wf = true) (hready : s.Ready)
    (hidle : s.seq = .idle) (hq : s.hostQueue = .present r :: rest) (hd : decodeRequest r = .ok .waitReady) :
    step s = step (s.startWait rest) := by
  have hstart : issueRdsr (s.startWait rest) = waitReadyThen (.poll .waitReady) finish { s with hostQueue := rest } :=
    issueRdsr_of_poll (s := s.startWait rest) rfl rfl
  rw [stepRunsDecodedInstruction.1 s r rest .waitReady hidle hq hd,
    step_of_wait (s := s.startWait rest) hwf hready rfl, hstart]
  exact next_commandChecks_of_ready (s := { s with hostQueue := rest }) hready rfl

/-- The status reads of a run of polls are 116 events each (R143). -/
theorem afterBusyPolls_trace_length (s : State) (n : Nat) : (s.afterBusyPolls n).trace.length = s.trace.length + 116 * n := by
  rw [afterBusyPolls_trace, List.length_append, framesEvents_replicate_length]
  rfl

/-- Settles O30: the request's steps are those of its wait; m busy polls lead to one that is ready. -/
theorem waitEndsAtTheFirstReadyPoll : Obligations.WaitEndsAtTheFirstReadyPoll := by
  intro s m r rest hwf hready hidle hq hd hbound hbusy hlast
  have hstart := step_of_waitReady hwf hready hidle hq hd
  have hrun : Host.Core.run Sys2Proof.core m (s.startWait rest) = .next ((s.startWait rest).afterBusyPolls m) :=
    run_of_busy (s := s.startWait rest) hwf hready rfl (fun L hL => by simpa using hbound L hL) hbusy
  have hst : busy (((s.startWait rest).afterBusyPolls m).byteIn 1) = false := by rw [afterBusyPolls_byteIn]; exact hlast
  have hstep : step ((s.startWait rest).afterBusyPolls m) = .next (finish
      { ((s.startWait rest).afterBusyPolls m).afterFrame [s.cfg.opRdsr, s.cfg.dummy] with polls := m + 1, lastRdyn := false }) := by
    rw [step_of_wait (by rw [afterBusyPolls_cfg]; exact hwf) (afterBusyPolls_ready (s := s.startWait rest) hready m)
      (by rw [afterBusyPolls_seq]; rfl), issueRdsr_at_poll (w := .waitReady) (by rw [afterBusyPolls_seq]; rfl), hst,
      afterLastPoll_of_ready hst, afterBusyPolls_cfg, afterBusyPolls_polls, startWait_polls, Nat.zero_add]
    rfl
  obtain ⟨hfault, hoe, -⟩ := hready
  refine ⟨_, (run_congr hstart (by omega)).trans (run_then_step hrun hstep), ?_, rfl, rfl, ?_, rfl, ?_, ?_, ?_⟩
  · simp [finish]
  · simp [finish, hfault]
  · simp [finish]
  · simp [finish, hoe]
  · simp only [finish, respond_trace, afterFrame_trace, List.length_append, afterBusyPolls_trace_length, frameEvents_length,
      List.length_cons, List.length_nil, startWait_trace]
    omega

/-- Settles O31: the m-th busy poll exhausts the bound; a request's wait is one with all n polls left. -/
theorem boundedWaitFaultsAfterItsLimit : Obligations.BoundedWaitFaultsAfterItsLimit := by
  refine ⟨fun s n r rest hwf hready hidle hq hd hlimit hbusy => ?_, fun s m n hwf hready hpins hwait hlimit hm hsum hbusy => ?_⟩
  · have hn := Config.wf_pollLimit hwf hlimit
    have hrun := run_of_exhausted (s := s.startWait rest) hwf hready rfl hlimit hn (Nat.zero_add n) hbusy
    obtain ⟨hcsn, hsck, -⟩ := afterBusyPolls_frameEnded (s.startWait rest) hn
    refine ⟨_, (run_congr (step_of_waitReady hwf hready hidle hq hd) hn).trans hrun, rfl, ?_, rfl, Nat.zero_add n, ?_, ?_, hsck, ?_⟩
    · simp
    · simp [hready.2.1]
    · simp [hcsn]
    · simp [afterBusyPolls_trace_length]
  · have hrun := run_of_exhausted hwf hready hwait hlimit hm hsum hbusy
    obtain ⟨hcsn, hsck, -⟩ := afterBusyPolls_frameEnded s hm
    refine ⟨_, _, hrun, rfl, ?_, rfl, hsum, ?_, ?_, hsck, afterBusyPolls_trace s m,
      framesSeen_framesEvents hready hpins (by simp) s.level⟩
    · simp
    · simp [hready.2.1]
    · simp [hcsn]

/-- Settles O32: with no bound every busy poll is within it. -/
theorem unboundedWaitNeverResponds : Obligations.UnboundedWaitNeverResponds := by
  intro s n hwf hready hpins hwait hlimit hbusy
  have hrun := run_of_busy hwf hready hwait (n := n) (fun L hL => by simp [hlimit] at hL) hbusy
  refine ⟨_, _, hrun, afterBusyPolls_seq s n, afterBusyPolls_responses s n, ?_, rfl, afterBusyPolls_trace s n, ?_⟩
  · rw [afterBusyPolls_fault]
    exact hready.1
  · exact framesSeen_framesEvents hready hpins (by simp) s.level

end Sys2Proof.Machine
end

section
/-! PROOFS. Family 42_busy_we_sequencer.md, the write-enable, the chunk loop and the fault entry. The chunk loop is followed from wait to wait: after
m ready and confirmed chunks it is in the wait of chunk j + m (`chunkLoop_eq_of_ready_chunks`), and there it ends in one of three ways
(`chunkLoop_done_after_ready_chunks` and the two lemmas after it). PROGRAM_CHUNKED from its request is the loop from the wait of chunk 0 with no poll
counted (`exec_programChunked`), so a request and a parked chunk share all of this. -/

namespace Sys2Proof.Machine

/-! ### The write-enable -/

/-- A write-enable in closed form: WREN, then the status read whose bit 5 decides (R99). -/
theorem writeEnableThen_eq (atEnable atConfirm : Seq) (k : State → State) (s : State) :
    writeEnableThen atEnable atConfirm k s =
      afterConfirm k (s.byteIn 2)
        { s.afterFrames [[s.cfg.opWren], [s.cfg.opRdsr, s.cfg.dummy]] with lastRdyn := busy (s.byteIn 2), seq := atConfirm } := by
  have hstatus : State.byteIn { State.afterFrame [s.cfg.opWren] { s with seq := atEnable } with seq := atConfirm } 1 = s.byteIn 2 :=
    byteIn_congr (n := 1) rfl rfl 1
  rw [writeEnableThen, sendWren_eq, confirmThen, readStatusThen_eq, ← hstatus]
  rfl

/-- Settles O33: the body is the write-enable, and `wen` is bit 5 of the status. -/
theorem writeEnableConfirmsOrFaults : Obligations.WriteEnableConfirmsOrFaults := fun s =>
  request_spec_of_commandChecks (i := .writeEnable) rfl rfl <| by
    rw [writeEnableThen_eq, afterConfirm]
    rfl

/-! ### The chunks of the data -/

section
variable {cfg : Config} (hwf : cfg.wf = true)
include hwf

/-- Chunk k exists when data is left at its start (R107). -/
theorem lt_chunkCount_iff {len k : Nat} : k < chunkCount cfg len ↔ k * cfg.chunkSize < len := by
  rw [← not_le, chunkCount_le cfg (Config.wf_chunkSize hwf), not_le]

/-- Every chunk but the last is full (R107). -/
theorem chunkData_length_of_not_last {data : List Byte} {k : Nat} (h : k + 1 < chunkCount cfg data.length) :
    (chunkData cfg data k).length = cfg.chunkSize := by
  have hfull := (lt_chunkCount_iff hwf).mp h
  rw [Nat.add_mul, Nat.one_mul] at hfull
  rw [chunkData, List.length_take, List.length_drop]
  omega

/-- No chunk is empty (R107). -/
theorem chunkData_length_pos {data : List Byte} {k : Nat} (h : k < chunkCount cfg data.length) :
    1 ≤ (chunkData cfg data k).length := by
  have hleft := (lt_chunkCount_iff hwf).mp h
  have hsize := Config.wf_chunkSize hwf
  rw [chunkData, List.length_take, List.length_drop]
  omega

/-- The address of a chunk of a request in range does not wrap (R105, R108). -/
theorem chunkAddr_toNat {addr : Addr} {data : List Byte} {k : Nat} (h : k < chunkCount cfg data.length)
    (hrange : addr.toNat + data.length ≤ 0x10000) : (chunkAddr cfg addr k).toNat = addr.toNat + k * cfg.chunkSize := by
  have hstart := (lt_chunkCount_iff hwf).mp h
  rw [chunkAddr, BitVec.toNat_ofNat]
  exact Nat.mod_eq_of_lt (by omega)

end

/-- The first m chunks are the first m * CHUNK_SIZE bytes (R105). -/
theorem flatMap_chunkData (cfg : Config) (data : List Byte) (m : Nat) :
    (List.range m).flatMap (chunkData cfg data) = data.take (m * cfg.chunkSize) := by
  induction m with
  | zero => simp
  | succ m ih => rw [List.range_succ, List.flatMap_append, ih, Nat.add_mul, Nat.one_mul, List.take_add, List.flatMap_singleton, chunkData]

/-- Settles O36: chunk k is the CHUNK_SIZE bytes from k * CHUNK_SIZE on, as far as there are any. -/
theorem chunksPartitionTheData : Obligations.ChunksPartitionTheData := by
  intro cfg addr data hwf
  have hcount := chunkCount_le cfg (Config.wf_chunkSize hwf) data.length
  refine ⟨⟨(hcount _).mp le_rfl, fun m => (hcount m).mpr⟩, ?_, fun k hk => ⟨chunkData_length_pos hwf hk, ?_, ?_, ?_⟩⟩
  · rw [flatMap_chunkData]
    exact List.take_of_length_le ((hcount _).mp le_rfl)
  · exact List.length_take_le _ _
  · exact chunkData_length_of_not_last hwf
  · exact chunkAddr_toNat hwf hk

/-- After chunk k comes chunk k + 1, if there is one (R104). -/
theorem chunksAfter_eq_cons {cfg : Config} {data : List Byte} {k : Nat} (h : k + 1 < chunkCount cfg data.length) :
    chunksAfter cfg data k = (k + 1) :: chunksAfter cfg data (k + 1) := by
  have hcount : chunkCount cfg data.length - (k + 1) = (chunkCount cfg data.length - (k + 1 + 1)) + 1 := by omega
  rw [chunksAfter, hcount, List.range'_succ, chunksAfter]

/-- After the last chunk comes none (R109). -/
theorem chunksAfter_eq_nil {cfg : Config} {data : List Byte} {k : Nat} (h : k + 1 = chunkCount cfg data.length) :
    chunksAfter cfg data k = [] := by
  rw [chunksAfter, h, Nat.sub_self, List.range'_zero]

/-- All the chunks, if there are any: chunk 0 and those after it. -/
theorem range_chunkCount {cfg : Config} {data : List Byte} (h : 0 < chunkCount cfg data.length) :
    List.range (chunkCount cfg data.length) = 0 :: chunksAfter cfg data 0 := by
  obtain ⟨n, hn⟩ := Nat.exists_eq_add_of_le' h
  rw [chunksAfter, hn, List.range_eq_range', List.range'_succ]
  simp

/-! ### The chunk loop from a chunk's wait -/

/-- The chunk loop from the next poll of chunk k's wait on (R104). -/
def chunkLoop (addr : Addr) (data : List Byte) (k : Nat) (s : State) : State :=
  readStatusThen (afterPoll (enableAndSend addr data k (nextChunks addr data k))) s

/-- A step in a chunk's wait is the loop from there (R104; log 6). -/
theorem step_of_chunkWait {s : State} (hwf : s.cfg.wf = true) (hready : s.Ready) {k : Nat} {addr : Addr} {data : List Byte}
    (hseq : s.seq = .chunk k .wait addr data) : step s = .next (chunkLoop addr data k s) := by
  rw [step_of_wait hwf hready (by rw [hseq]; rfl), issueRdsr_at_chunkWait hseq, chunkLoop]

/-- A write-enable that is not confirmed ends the request before the program frame (R100, R110). -/
theorem enableAndSend_unconfirmed (addr : Addr) (data : List Byte) (k : Nat) (next : State → State) (s : State)
    (h : wen (s.byteIn 2) = false) :
    enableAndSend addr data k next s = raiseFault .handshakeFailure
      { s.afterFrames [[s.cfg.opWren], [s.cfg.opRdsr, s.cfg.dummy]] with
        lastRdyn := busy (s.byteIn 2), seq := .chunk k .confirm addr data } := by
  rw [enableAndSend, writeEnableThen_eq, afterConfirm, h, if_neg (by decide)]

/-- The chunks after chunk k are the same before its write-enable as after it: the configuration stays (R134). -/
theorem enableAndSend_nextChunks (addr : Addr) (data : List Byte) (k : Nat) (s : State) :
    enableAndSend addr data k (nextChunks addr data k) s =
      enableAndSend addr data k (runChunks addr data (chunksAfter s.cfg data k)) s := by
  cases h : wen (s.byteIn 2) with
  | true =>
    rw [enableAndSend_confirmed _ _ _ _ _ h, enableAndSend_confirmed _ _ _ _ _ h]
    rfl
  | false => rw [enableAndSend_unconfirmed _ _ _ _ _ h, enableAndSend_unconfirmed _ _ _ _ _ h]

/-- Going over to chunk k is the loop from its wait, no poll counted yet (R96, R104). -/
theorem runChunks_cons {cfg : Config} (addr : Addr) (data : List Byte) (k : Nat) {s : State} (hcfg : s.cfg = cfg) :
    runChunks addr data (k :: chunksAfter cfg data k) s =
      chunkLoop addr data k { s with polls := 0, seq := .chunk k .wait addr data } := by
  subst hcfg
  rw [runChunks, waitReadyThen, chunkLoop, readStatusThen_eq, readStatusThen_eq]
  cases h : busy (State.byteIn { s with polls := 0, seq := .chunk k .wait addr data } 1) with
  | true => rw [afterPoll_of_busy h, afterPoll_of_busy h]
  | false =>
    rw [afterPoll_of_ready h, afterPoll_of_ready h, enableAndSend_nextChunks]
    rfl

/-- The state of a wait after the poll that found the device ready. -/
def State.afterReadyPoll (s : State) : State :=
  { s.afterFrame [s.cfg.opRdsr, s.cfg.dummy] with polls := s.polls + 1, lastRdyn := false }

/-- A ready poll ends the wait: the chunk's write-enable follows (R104). -/
theorem chunkLoop_of_readyPoll {addr : Addr} {data : List Byte} {k : Nat} {s : State} (hready : busy (s.byteIn 1) = false) :
    chunkLoop addr data k s = enableAndSend addr data k (nextChunks addr data k) s.afterReadyPoll := by
  rw [chunkLoop, readStatusThen_eq, afterPoll_of_ready hready, hready]
  rfl

/-- The status that confirms the write-enable is the third byte after the poll's two (R53, R99). -/
theorem afterReadyPoll_byteIn_two (s : State) : s.afterReadyPoll.byteIn 2 = s.byteIn 4 := byteIn_congr (n := 2) rfl rfl 2

/-- A chunk whose wait ends at the next poll and whose write-enable is confirmed is sent (R104). -/
theorem chunkLoop_of_confirmed {addr : Addr} {data : List Byte} {k : Nat} {s : State} (hready : busy (s.byteIn 1) = false)
    (hwen : wen (s.byteIn 4) = true) :
    chunkLoop addr data k s = runChunks addr data (chunksAfter s.cfg data k)
      { s.afterFrames (chunkFrames s.cfg addr data k) with
        polls := s.polls + 1, weArmed := false, lastRdyn := busy (s.byteIn 4)
        obligationViolated := s.obligationViolated || busy (s.byteIn 4), seq := .chunk k .send addr data } := by
  rw [← afterReadyPoll_byteIn_two] at hwen ⊢
  rw [chunkLoop_of_readyPoll hready, enableAndSend_confirmed _ _ _ _ _ hwen]
  rfl

/-- A chunk whose wait ends at the next poll and whose write-enable is not confirmed ends the request (R100, R110). -/
theorem chunkLoop_of_unconfirmed {addr : Addr} {data : List Byte} {k : Nat} {s : State} (hready : busy (s.byteIn 1) = false)
    (hwen : wen (s.byteIn 4) = false) :
    chunkLoop addr data k s = raiseFault .handshakeFailure
      { s.afterFrames [[s.cfg.opRdsr, s.cfg.dummy], [s.cfg.opWren], [s.cfg.opRdsr, s.cfg.dummy]] with
        polls := s.polls + 1, lastRdyn := busy (s.byteIn 4), seq := .chunk k .confirm addr data } := by
  rw [← afterReadyPoll_byteIn_two] at hwen ⊢
  rw [chunkLoop_of_readyPoll hready, enableAndSend_unconfirmed _ _ _ _ _ hwen]
  rfl

/-- A busy poll leaves the loop in the same wait, or exhausts the bound (R97, R98). -/
theorem chunkLoop_of_busy {addr : Addr} {data : List Byte} {k : Nat} {s : State} (hbusy : busy (s.byteIn 1) = true) :
    chunkLoop addr data k s =
      State.afterLastPoll { s.afterFrame [s.cfg.opRdsr, s.cfg.dummy] with polls := s.polls + 1, lastRdyn := true } (s.byteIn 1) := by
  rw [chunkLoop, readStatusThen_eq, afterPoll_of_busy hbusy, hbusy]
  rfl

/-! ### Ready chunks in a row -/

/-- The first m chunks from where `s` is are each ready at the first poll, and their write-enables are confirmed: what the device sends in
the m times CHUNK_SIZE + 8 bytes they take. -/
def State.ReadyChunks (s : State) (m : Nat) : Prop :=
  ∀ k, k < m → busy (s.byteIn (k * (s.cfg.chunkSize + 8) + 1)) = false ∧ wen (s.byteIn (k * (s.cfg.chunkSize + 8) + 4)) = true

/-- The frames of m chunks from chunk j on (R104). -/
def framesOfChunks (cfg : Config) (addr : Addr) (data : List Byte) (j m : Nat) : List (List Byte) :=
  (List.range' j m).flatMap (chunkFrames cfg addr data)

/-- A confirming status among those of the first m chunks has bit 4 set (R111). -/
def State.anyConfirmedBusy (s : State) (m : Nat) : Bool :=
  (List.range m).any fun k => busy (s.byteIn (k * (s.cfg.chunkSize + 8) + 4))

/-- The wait of chunk j + m that the loop gets to from the wait of chunk j through m ready chunks, no poll of it made; for m = 0 it is where
the loop is (R104, R111). -/
def State.atChunk (s : State) (addr : Addr) (data : List Byte) (j m : Nat) : State :=
  { s.afterFrames (framesOfChunks s.cfg addr data j m) with
    polls := if m = 0 then s.polls else 0
    weArmed := if m = 0 then s.weArmed else false
    lastRdyn := if m = 0 then s.lastRdyn else busy (s.byteIn ((m - 1) * (s.cfg.chunkSize + 8) + 4))
    obligationViolated := s.obligationViolated || s.anyConfirmedBusy m
    seq := .chunk (j + m) .wait addr data }

theorem framesOfChunks_succ (cfg : Config) (addr : Addr) (data : List Byte) (j m : Nat) :
    framesOfChunks cfg addr data j (m + 1) = framesOfChunks cfg addr data j m ++ chunkFrames cfg addr data (j + m) := by
  simp [framesOfChunks, List.range'_concat]

/-- Chunks before the last take CHUNK_SIZE + 8 bytes each (R104, R107). -/
theorem framesOfChunks_length {cfg : Config} (hwf : cfg.wf = true) (addr : Addr) {data : List Byte} {j m : Nat}
    (h : j + m < chunkCount cfg data.length) :
    ((framesOfChunks cfg addr data j m).map List.length).sum = m * (cfg.chunkSize + 8) := by
  induction m with
  | zero => simp [framesOfChunks]
  | succ m ih =>
    rw [framesOfChunks_succ, List.map_append, List.sum_append, ih (by omega), chunkFrames_length,
      chunkData_length_of_not_last hwf (by omega)]
    ring

theorem anyConfirmedBusy_succ (s : State) (m : Nat) :
    s.anyConfirmedBusy (m + 1) = (s.anyConfirmedBusy m || busy (s.byteIn (m * (s.cfg.chunkSize + 8) + 4))) := by
  simp [State.anyConfirmedBusy, List.range_succ]

@[simp] theorem atChunk_cfg (s : State) (addr : Addr) (data : List Byte) (j m : Nat) : (s.atChunk addr data j m).cfg = s.cfg :=
  afterFrames_cfg _ s

/-- Frames after m chunks are the chunks' frames and then those. -/
theorem atChunk_afterFrames (s : State) (addr : Addr) (data : List Byte) (j m : Nat) (fs : List (List Byte)) :
    (s.atChunk addr data j m).afterFrames fs =
      { s.afterFrames (framesOfChunks s.cfg addr data j m ++ fs) with
        polls := (s.atChunk addr data j m).polls, weArmed := (s.atChunk addr data j m).weArmed
        lastRdyn := (s.atChunk addr data j m).lastRdyn, obligationViolated := (s.atChunk addr data j m).obligationViolated
        seq := (s.atChunk addr data j m).seq } := by
  rw [afterFrames_append]
  exact afterFrames_with fs _ _ _ _ _ _

theorem atChunk_byteIn {s : State} (hwf : s.cfg.wf = true) (addr : Addr) {data : List Byte} {j m : Nat}
    (h : j + m < chunkCount s.cfg data.length) (k : Nat) :
    (s.atChunk addr data j m).byteIn k = s.byteIn (m * (s.cfg.chunkSize + 8) + k) := by
  rw [← framesOfChunks_length hwf addr h]
  exact afterFrames_byteIn _ s k

/-- One more ready chunk. -/
theorem atChunk_succ (s : State) (addr : Addr) (data : List Byte) (j m : Nat) :
    s.atChunk addr data j (m + 1) =
      { (s.atChunk addr data j m).afterFrames (chunkFrames s.cfg addr data (j + m)) with
        polls := 0, weArmed := false, lastRdyn := busy (s.byteIn (m * (s.cfg.chunkSize + 8) + 4))
        obligationViolated := (s.atChunk addr data j m).obligationViolated || busy (s.byteIn (m * (s.cfg.chunkSize + 8) + 4))
        seq := .chunk (j + m + 1) .wait addr data } := by
  rw [atChunk_afterFrames, ← framesOfChunks_succ]
  simp [State.atChunk, anyConfirmedBusy_succ, Bool.or_assoc, Nat.add_assoc]

section
variable {s : State} (hwf : s.cfg.wf = true) {addr : Addr} {data : List Byte} {j m : Nat} (hseq : s.seq = .chunk j .wait addr data)
include hwf hseq

/-- Through m ready chunks the loop gets to the wait of chunk j + m (R104). -/
theorem chunkLoop_eq_of_ready_chunks (h : j + m < chunkCount s.cfg data.length) (hchunks : s.ReadyChunks m) :
    chunkLoop addr data j s = chunkLoop addr data (j + m) (s.atChunk addr data j m) := by
  induction m with
  | zero => simp [State.atChunk, framesOfChunks, State.anyConfirmedBusy, ← hseq]
  | succ m ih =>
    obtain ⟨hready, hwen⟩ := hchunks m (by omega)
    rw [← atChunk_byteIn hwf addr (data := data) (j := j) (by omega)] at hready hwen
    rw [ih (by omega) fun k hk => hchunks k (by omega), chunkLoop_of_confirmed hready hwen, atChunk_cfg, chunksAfter_eq_cons (by omega),
      runChunks_cons _ _ _ (by simp), atChunk_byteIn hwf addr (by omega), ← Nat.add_assoc, atChunk_succ]

/-- On a device ready up to the last chunk the loop sends the chunks and ends (R104, R109). -/
theorem chunkLoop_done_after_ready_chunks (hm : 1 ≤ m) (h : j + m = chunkCount s.cfg data.length) (hchunks : s.ReadyChunks m) :
    chunkLoop addr data j s =
      { s.afterFrames (framesOfChunks s.cfg addr data j m) with
        polls := if m = 1 then s.polls + 1 else 1, weArmed := false
        lastRdyn := busy (s.byteIn ((m - 1) * (s.cfg.chunkSize + 8) + 4))
        obligationViolated := s.obligationViolated || s.anyConfirmedBusy m
        responses := s.responses ++ [.done], seq := .idle } := by
  obtain ⟨n, rfl⟩ := Nat.exists_eq_add_of_le' hm
  obtain ⟨hready, hwen⟩ := hchunks n (by omega)
  rw [← atChunk_byteIn hwf addr (data := data) (j := j) (by omega)] at hready hwen
  rw [chunkLoop_eq_of_ready_chunks hwf hseq (m := n) (by omega) fun k hk => hchunks k (by omega), chunkLoop_of_confirmed hready hwen,
    atChunk_cfg, chunksAfter_eq_nil (by omega), runChunks, atChunk_afterFrames, ← framesOfChunks_succ,
    atChunk_byteIn hwf addr (by omega)]
  simp [State.atChunk, finish, respond, anyConfirmedBusy_succ, Bool.or_assoc, ite_add]

/-- Through m ready chunks and then an unconfirmed write-enable the loop ends in the fault, chunk j + m not sent (R100, R110). -/
theorem chunkLoop_unconfirmed_after_ready_chunks (h : j + m < chunkCount s.cfg data.length) (hchunks : s.ReadyChunks m)
    (hready : busy (s.byteIn (m * (s.cfg.chunkSize + 8) + 1)) = false)
    (hwen : wen (s.byteIn (m * (s.cfg.chunkSize + 8) + 4)) = false) :
    chunkLoop addr data j s =
      { s.afterFrames (framesOfChunks s.cfg addr data j m ++
          [[s.cfg.opRdsr, s.cfg.dummy], [s.cfg.opWren], [s.cfg.opRdsr, s.cfg.dummy]]) with
        polls := if m = 0 then s.polls + 1 else 1, weArmed := if m = 0 then s.weArmed else false
        lastRdyn := busy (s.byteIn (m * (s.cfg.chunkSize + 8) + 4))
        obligationViolated := s.obligationViolated || s.anyConfirmedBusy m
        fault := some .handshakeFailure, responses := s.responses ++ [.faulted .handshakeFailure], seq := .idle } := by
  rw [← atChunk_byteIn hwf addr h] at hready hwen
  rw [chunkLoop_eq_of_ready_chunks hwf hseq h hchunks, chunkLoop_of_unconfirmed hready hwen, atChunk_cfg, atChunk_afterFrames,
    atChunk_byteIn hwf addr h]
  simp [State.atChunk, raiseFault, respond, ite_add]

/-- Through m ready chunks and then a busy poll the loop is in the wait of chunk j + m, or exhausts the bound (R97, R98, R110). -/
theorem chunkLoop_busy_after_ready_chunks (h : j + m < chunkCount s.cfg data.length) (hchunks : s.ReadyChunks m)
    (hbusy : busy (s.byteIn (m * (s.cfg.chunkSize + 8) + 1)) = true) :
    chunkLoop addr data j s =
      State.afterLastPoll
        { s.afterFrames (framesOfChunks s.cfg addr data j m ++ [[s.cfg.opRdsr, s.cfg.dummy]]) with
          polls := if m = 0 then s.polls + 1 else 1, weArmed := if m = 0 then s.weArmed else false, lastRdyn := true
          obligationViolated := s.obligationViolated || s.anyConfirmedBusy m, seq := .chunk (j + m) .wait addr data }
        (s.byteIn (m * (s.cfg.chunkSize + 8) + 1)) := by
  rw [← atChunk_byteIn hwf addr h] at hbusy
  rw [chunkLoop_eq_of_ready_chunks hwf hseq h hchunks, chunkLoop_of_busy hbusy, atChunk_byteIn hwf addr h, atChunk_cfg,
    ← afterFrames_nil (State.afterFrame _ _), ← afterFrames_cons, atChunk_afterFrames]
  simp [State.atChunk, ite_add]

end

/-- The first poll of a wait, busy: a bound of one poll is exhausted, any other leaves the wait going on (R97, R98). -/
theorem afterLastPoll_of_first_busy {st : Byte} (hbusy : busy st = true) {t : State} (hwf : t.cfg.wf = true) (hfault : t.fault = none)
    (hpolls : t.polls = 1) :
    t.afterLastPoll st =
      { t with
        fault := if t.cfg.pollLimit = some 1 then some .deviceUnresponsive else none
        responses := if t.cfg.pollLimit = some 1 then t.responses ++ [.faulted .deviceUnresponsive] else t.responses
        seq := if t.cfg.pollLimit = some 1 then .idle else t.seq } := by
  by_cases hone : t.cfg.pollLimit = some 1
  · rw [afterLastPoll_of_exhausted hbusy hone hpolls.ge]
    simp [hone, raiseFault, respond]
  · have hbound : ∀ n, t.cfg.pollLimit = some n → t.polls < n := fun n hn => by
      have hpos := Config.wf_pollLimit hwf hn
      have hne : n ≠ 1 := fun h => hone (h ▸ hn)
      omega
    rw [afterLastPoll_of_within_bound hbusy hbound]
    simp [hone, ← hfault]

/-- Settles O41: the step is the loop from the wait, and the three clauses are its three ends. -/
theorem parkedChunkGoesOn : Obligations.ParkedChunkGoesOn := by
  intro addr data s j m hwf hready hseq hle hchunks
  rw [step_of_chunkWait hwf hready hseq]
  refine ⟨fun hm hlast => ?_, fun hlt hrdy hwen => ?_, fun hm hlt hbusy => ?_⟩
  · rw [chunkLoop_done_after_ready_chunks hwf hseq hm hlast hchunks]
    rfl
  · rw [chunkLoop_unconfirmed_after_ready_chunks hwf hseq hlt hchunks hrdy hwen]
    rfl
  · have hm' : m ≠ 0 := by omega
    rw [chunkLoop_busy_after_ready_chunks hwf hseq hlt hchunks hbusy,
      afterLastPoll_of_first_busy hbusy (by simpa) (by simpa using hready.1) (by simp [hm'])]
    simp [hm', framesOfChunks, State.anyConfirmedBusy]

/-! ### PROGRAM_CHUNKED from its request -/

/-- With no data there is no chunk (R104). -/
theorem chunkCount_zero {cfg : Config} (hwf : cfg.wf = true) : chunkCount cfg 0 = 0 :=
  Nat.le_zero.mp ((chunkCount_le cfg (Config.wf_chunkSize hwf) 0 0).mpr (Nat.zero_le _))

/-- Settles O37: the range check comes after `command_checks()`, and no data are no chunks. -/
theorem chunkedProgramEdges : Obligations.ChunkedProgramEdges := by
  intro addr data s
  obtain ⟨hdecode, hrefuse, -⟩ := request_spec_of_commandChecks (i := .programChunked addr data) (s := s) rfl rfl rfl
  refine ⟨hdecode, hrefuse, fun hready hrange => ?_, fun hready hwf => ?_⟩
  · have hout : programChunks addr data s = refuse .argumentRange s := by
      rw [programChunks, outOfRange, if_pos (decide_eq_true hrange)]
    exact refusedBy_of_refuse rfl ((commandChecks_ready hready _).trans hout)
  · refine next_commandChecks_of_ready hready ?_
    have hin : outOfRange addr [] = false := decide_eq_false (by rw [List.length_nil]; omega)
    rw [programChunks, hin, if_neg (by decide), List.length_nil, chunkCount_zero hwf]
    rfl

/-- The wait of chunk 0 that a PROGRAM_CHUNKED request begins, no poll counted yet (R104). -/
def State.startChunks (s : State) (addr : Addr) (data : List Byte) : State := { s with polls := 0, seq := .chunk 0 .wait addr data }

@[simp] theorem startChunks_polls (s : State) (addr : Addr) (data : List Byte) : (s.startChunks addr data).polls = 0 := rfl
@[simp] theorem startChunks_cfg (s : State) (addr : Addr) (data : List Byte) : (s.startChunks addr data).cfg = s.cfg := rfl
@[simp] theorem startChunks_byteIn (s : State) (addr : Addr) (data : List Byte) (k : Nat) :
    (s.startChunks addr data).byteIn k = s.byteIn k := rfl

/-- The request in range, with data, is the loop from the wait of chunk 0 (R104). -/
theorem exec_programChunked {addr : Addr} {data : List Byte} {s : State} (hready : s.Ready)
    (hrange : addr.toNat + data.length ≤ 0x10000) (hpos : 0 < chunkCount s.cfg data.length) :
    exec (.programChunked addr data) s = .next (chunkLoop addr data 0 (s.startChunks addr data)) := by
  refine next_commandChecks_of_ready hready ?_
  rw [programChunks, outOfRange, if_neg (by simpa using hrange), range_chunkCount hpos, runChunks_cons addr data 0 rfl]
  rfl

theorem startChunks_afterFrames (s : State) (addr : Addr) (data : List Byte) (fs : List (List Byte)) :
    (s.startChunks addr data).afterFrames fs =
      { s.afterFrames fs with
        polls := 0, weArmed := s.weArmed, lastRdyn := s.lastRdyn, obligationViolated := s.obligationViolated
        seq := .chunk 0 .wait addr data } :=
  afterFrames_with fs s _ _ _ _ _

/-- Settles O38: the loop from the wait of chunk 0 on a device ready up to the last chunk. -/
theorem chunkedProgramOnReadyDevice : Obligations.ChunkedProgramOnReadyDevice := by
  intro addr data s hwf hready hrange hdata hchunks
  have hpos : 0 < chunkCount s.cfg data.length := by
    rw [lt_chunkCount_iff hwf, Nat.zero_mul]
    exact List.length_pos_iff.mpr hdata
  rw [exec_programChunked hready hrange hpos, chunkLoop_done_after_ready_chunks (s := s.startChunks addr data) hwf rfl hpos (Nat.zero_add _) hchunks,
    startChunks_afterFrames, framesOfChunks, ← List.range_eq_range']
  simp only [startChunks_polls, Nat.zero_add, ite_self]
  rfl

/-- Settles O39: the loop from the wait of chunk 0 to chunk j's write-enable. -/
theorem chunkedProgramStopsAtUnconfirmedChunk : Obligations.ChunkedProgramStopsAtUnconfirmedChunk := by
  intro addr data s j hwf hready hrange hj hrdy hwen hunconfirmed
  have hchunks : s.ReadyChunks j := fun k hk => ⟨hrdy k hk.le, hwen k hk⟩
  rw [exec_programChunked hready hrange (by omega),
    chunkLoop_unconfirmed_after_ready_chunks (s := s.startChunks addr data) hwf rfl (by rwa [Nat.zero_add]) hchunks (hrdy j le_rfl) hunconfirmed,
    startChunks_afterFrames, framesOfChunks, ← List.range_eq_range']
  simp only [startChunks_polls, Nat.zero_add, ite_self]
  rfl

/-- Settles O40: the loop from the wait of chunk 0 to chunk j's first poll. -/
theorem chunkedProgramWaitsAtBusyChunk : Obligations.ChunkedProgramWaitsAtBusyChunk := by
  intro addr data s j hwf hready hrange hj hchunks hbusy
  rw [exec_programChunked hready hrange (by omega),
    chunkLoop_busy_after_ready_chunks (s := s.startChunks addr data) hwf rfl (by rwa [Nat.zero_add]) hchunks hbusy,
    startChunks_afterFrames, framesOfChunks, ← List.range_eq_range']
  simp only [startChunks_polls, startChunks_cfg, startChunks_byteIn, Nat.zero_add, ite_self]
  rw [afterLastPoll_of_first_busy hbusy (by simpa) (by simpa using hready.1) rfl]
  simp only [afterFrames_cfg, afterFrames_responses]
  rfl

/-! ### Fault entry -/

/-- If `t` holds a fault, it was taken on the bus `s` drove, it left the lines as the frame before it did, and its response is the one
response after those of `s` (R124). -/
def State.FaultsCleanlyTo (s t : State) : Prop :=
  ∀ k, t.fault = some k →
    t.oe = true ∧ s.oe = true ∧ t.csAsserted = false ∧ t.csnQ = (!t.cfg.csActiveLevel) ∧ t.sckQ = false ∧ t.seq = .idle ∧
      t.responses = s.responses ++ [.faulted k]

theorem faultsCleanlyTo_of_no_fault {s t : State} (h : t.fault = none) : s.FaultsCleanlyTo t :=
  fun _ hk => absurd (h.symm.trans hk) nofun

/-- Up to its end a frame request has no fault, drives the bus and has answered nothing. -/
def State.RunsWithoutFault (s t : State) : Prop := t.fault = none ∧ t.oe = true ∧ s.oe = true ∧ t.responses = s.responses

/-- A fault is taken right after a frame, and the lines stay as the frame left them (R100, R124). -/
theorem faultsCleanlyTo_seqClosed (s : State) : SeqClosed s.RunsWithoutFault s.FaultsCleanlyTo where
  send c i t hi h := by
    rw [sendCommand_eq c _ t (frameOf_ne_nil t.cfg i hi)]
    exact h
  seq _ _ h := h
  polls _ _ h := h
  arm _ h := h
  respond _ _ _ h := faultsCleanlyTo_of_no_fault h.1
  fault _ t h hend _ := by
    obtain ⟨-, hoe, hsoe, hresp⟩ := h
    obtain ⟨hcsn, hsck, hcs⟩ := hend
    rintro _ ⟨⟩
    exact ⟨hoe, hsoe, hcs, hcsn, hsck, rfl, by rw [raiseFault_responses, hresp]⟩
  park _ h _ := faultsCleanlyTo_of_no_fault h.1

/-- No refusal and no transceiver request sets FAULT, so an instruction that does is a frame request (R113). -/
theorem exec_faultsCleanlyTo {i : Instr} {s t : State} (hs : s.fault = none) (h : exec i s = .next t) : s.FaultsCleanlyTo t := by
  refine exec_closed (faultsCleanlyTo_seqClosed s) h ?_ ?_ ?_ ?_ ?_
  · exact fun r => faultsCleanlyTo_of_no_fault hs
  · rintro (_ | _) - - <;> exact faultsCleanlyTo_of_no_fault hs
  · exact fun a _ _ _ => faultsCleanlyTo_of_no_fault hs
  · intro out _ _ _
    rw [hostXfer_eq]
    exact faultsCleanlyTo_of_no_fault hs
  · exact fun hready => ⟨hs, hready.2.1, hready.2.1, rfl⟩

/-- Settles O52: fault entry is written out, and a step that sets FAULT runs an instruction. -/
theorem faultEntryLeavesTheBusDriven : Obligations.FaultEntryLeavesTheBusDriven := by
  refine ⟨fun k s => rfl, fun s t k h hs ht => ?_⟩
  refine step_closed (Q := s.FaultsCleanlyTo) h (fun _ _ => ?_) (fun _ _ _ => ?_) (fun _ _ => ?_) (fun i rest he => ?_) k ht
  · exact faultsCleanlyTo_of_no_fault hs
  · exact faultsCleanlyTo_of_no_fault rfl
  · exact faultsCleanlyTo_of_no_fault hs
  · exact exec_faultsCleanlyTo (s := { s with hostQueue := rest }) hs he

end Sys2Proof.Machine
end

section
/-! PROOFS. Family 60_exceptions.md: the refusals. Every instruction stands behind the checks of its kind (`exec_behind_sessionCheck`,
`exec_behind_busChecks`, `exec_behind_commandChecks`), so a failing check is its whole meaning; and whatever runs past the checks does not end in a
refusal but for the range check, which comes before any frame. -/

namespace Sys2Proof.Machine

/-! ### The checks an instruction stands behind -/

/-- Every instruction checks for a fault first (R114). -/
theorem exec_behind_sessionCheck (i : Instr) : ∃ body, ∀ s, exec i s = .next (sessionCheck body s) := by
  cases i <;> exact ⟨_, fun _ => rfl⟩

/-- Every instruction but SET_OE makes the checks for a fault and for a released bus first (R114). -/
theorem exec_behind_busChecks {i : Instr} (hoe : ∀ en, i ≠ .setOe en) : ∃ body, ∀ s, exec i s = .next (busChecks body s) := by
  cases i
  case setOe en => exact absurd rfl (hoe en)
  all_goals exact ⟨_, fun _ => rfl⟩

/-- Every instruction but the three transceiver requests makes `command_checks()` first (R114). -/
theorem exec_behind_commandChecks {i : Instr} (hoe : ∀ en, i ≠ .setOe en) (hcs : ∀ a, i ≠ .setCs a) (hxfer : ∀ out, i ≠ .xfer out) :
    ∃ body, ∀ s, exec i s = .next (commandChecks body s) := by
  cases i
  case setOe en => exact absurd rfl (hoe en)
  case setCs a => exact absurd rfl (hcs a)
  case xfer out => exact absurd rfl (hxfer out)
  all_goals exact ⟨_, fun _ => rfl⟩

/-! ### After a fault -/

/-- On a faulted block an instruction, wire commands included, is its first check (R116). -/
theorem refusedBy_of_fault (i : Instr) {s : State} (h : s.fault ≠ none) : s.RefusedBy i .sessionAborted := by
  obtain ⟨body, hexec⟩ := exec_behind_sessionCheck i
  exact refusedBy_of_refuse (hexec s) (sessionCheck_of_fault h body)

/-- An instruction run on a faulted block leaves FAULT (R116). -/
theorem exec_fault_of_fault {i : Instr} {s t : State} (hs : s.fault ≠ none) (h : exec i s = .next t) : t.fault = s.fault := by
  cases h.symm.trans (refusedBy_of_fault i hs)
  rfl

/-- Settles O11: every instruction checks for a fault first, and a refusal leaves FAULT. -/
theorem faultedBlockRefusesEverything : Obligations.FaultedBlockRefusesEverything := by
  refine ⟨fun i s _ hs => refusedBy_of_fault i hs, fun s t h hs hno => ?_⟩
  refine step_closed (Q := fun t => t.fault = s.fault) h (fun _ _ => rfl) (fun rest hidle hq => ?_) (fun _ _ => rfl)
    (fun i rest he => exec_fault_of_fault (s := { s with hostQueue := rest }) hs he)
  exact absurd ⟨hidle, by rw [hq]; rfl⟩ hno

/-! ### A released bus, an open scope -/

/-- Settles O12: past the check for a fault, every instruction but SET_OE checks for a released bus. -/
theorem releasedBusRefusesAllButSetOe : Obligations.ReleasedBusRefusesAllButSetOe := by
  intro i s _ hfault hreleased hoe
  obtain ⟨body, hexec⟩ := exec_behind_busChecks hoe
  exact refusedBy_of_refuse (hexec s) (busChecks_of_released hfault hreleased body)

/-- On a driven bus with no fault the check that an open scope fails is the one for it (R114, R118). -/
theorem checkRefusal_of_open_scope {s : State} (hfault : s.fault = none) (hdriven : s.oe = true) (hopen : s.csAsserted = true) :
    s.checkRefusal = some .frameOpen := by
  simp [State.checkRefusal, hfault, hdriven, hopen]

/-- Settles O13: every request that sends a frame makes `command_checks()`. -/
theorem openScopeRefusesFrames : Obligations.OpenScopeRefusesFrames := by
  intro i s _ hfault hdriven hopen hoe hcs hxfer
  obtain ⟨body, hexec⟩ := exec_behind_commandChecks hoe hcs hxfer
  exact refusedBy_of_refuse (hexec s) (commandChecks_refuse (checkRefusal_of_open_scope hfault hdriven hopen) body)

/-! ### A refusal changes nothing -/

/-- If the one response of `t` after those of `s` is a refusal, `t` is `s` but for the response list, SEQ and the host's queue (R115). -/
def State.RefusesCleanlyTo (s t : State) : Prop :=
  ∀ reason, t.responses = s.responses ++ [.refused reason] →
    t = { s with responses := t.responses, seq := .idle, hostQueue := t.hostQueue }

theorem refuse_refusesCleanlyTo (reason : RefusalReason) (s : State) (rest : List HostMove) :
    s.RefusesCleanlyTo (refuse reason { s with hostQueue := rest }) := fun _ _ => rfl

/-- A step that answers nothing refuses nothing. -/
theorem refusesCleanlyTo_of_no_response {s t : State} (h : t.responses = s.responses) : s.RefusesCleanlyTo t :=
  fun _ hrefused => by simp [h] at hrefused

/-- A request that ends with another response refuses nothing (R28). -/
theorem refusesCleanlyTo_of_response {s t : State} {r : Response} (h : t.responses = s.responses ++ [r])
    (hr : ∀ reason, r ≠ .refused reason) : s.RefusesCleanlyTo t := by
  intro reason hrefused
  have hrs : s.responses ++ [r] = s.responses ++ [.refused reason] := h.symm.trans hrefused
  exact absurd (by simpa using hrs) (hr reason)

theorem ne_refused_of_isResult {r : Response} (h : isResult r = true) (reason : RefusalReason) : r ≠ .refused reason := by
  rintro rfl
  cases h

/-- Past its checks a frame request has answered nothing, and ends with a result, a fault or in a busy wait (R122). -/
theorem refusesCleanlyTo_seqClosed (s : State) : SeqClosed (fun t => t.responses = s.responses) s.RefusesCleanlyTo where
  send := (responses_seqClosed s.responses).send
  seq _ _ h := h
  polls _ _ h := h
  arm _ h := h
  respond r t hr h := refusesCleanlyTo_of_response (r := r) (by rw [respond_responses, h]) (ne_refused_of_isResult hr)
  fault k t h _ _ := refusesCleanlyTo_of_response (r := .faulted k) (by rw [raiseFault_responses, h]) fun _ => nofun
  park _ h _ := refusesCleanlyTo_of_no_response h

theorem finish_refusesCleanlyTo {s t : State} (h : t.responses = s.responses) : s.RefusesCleanlyTo (finish t) :=
  (refusesCleanlyTo_seqClosed s).respond .done t rfl h

theorem exec_refusesCleanlyTo {i : Instr} {s t : State} (h : exec i s = .next t) : s.RefusesCleanlyTo t := by
  refine exec_closed (refusesCleanlyTo_seqClosed s) h ?_ ?_ ?_ ?_ ?_
  · exact fun reason => refuse_refusesCleanlyTo reason s s.hostQueue
  · rintro (_ | _) - -
    · exact finish_refusesCleanlyTo (t := releaseBus s) rfl
    · exact finish_refusesCleanlyTo (t := enableBus s) rfl
  · exact fun a _ _ _ => finish_refusesCleanlyTo (t := csWrite a s) rfl
  · intro out _ _ _
    rw [hostXfer_eq]
    exact refusesCleanlyTo_of_response rfl fun _ => nofun
  · exact fun _ => rfl

/-- A reset leaves no response, so it is no refusal (R133). -/
theorem sessionReset_refusesCleanlyTo (s : State) (rest : List HostMove) :
    s.RefusesCleanlyTo (sessionReset { s with hostQueue := rest }) := by
  intro reason hrefused
  have hnil : [] = s.responses ++ [.refused reason] := hrefused
  simp at hnil

/-- Settles O51: of the four things a step can be, a wait and a reset refuse nothing, and a refused request or an instruction that refuses has
changed nothing. -/
theorem refusalsChangeNothing : Obligations.RefusalsChangeNothing := by
  intro s t reason h hrefused
  refine step_closed (Q := s.RefusesCleanlyTo) h (fun _ _ => ?_) (fun rest _ _ => ?_) (fun r rest => ?_) (fun i rest he => ?_)
    reason hrefused
  · exact refusesCleanlyTo_of_no_response rfl
  · exact sessionReset_refusesCleanlyTo s rest
  · exact refuse_refusesCleanlyTo r s rest
  · exact exec_refusesCleanlyTo (s := { s with hostQueue := rest }) he

end Sys2Proof.Machine
end

section
/-! PROOFS. Family 70_reset_and_hazards.md: reset and the configuration. The configuration is a property of the lines no operation writes
(`LinesClosed.step_keeps`), and OBLIGATION_VIOLATED is one that every command frame keeps (`SeqClosed`). -/

namespace Sys2Proof.Machine

/-! ### The configuration -/

/-- No operation on the lines writes the configuration (R134; log 1). -/
theorem cfg_linesClosed (cfg : Config) : LinesClosed fun s => s.cfg = cfg where
  csWrite_keeps _ _ _ h := h
  afterByte_keeps _ _ _ h := h
  offLines_keeps _ _ _ _ _ _ _ _ _ h := h

/-- Settles O47: SET_OE and a reset write the configuration no more than the operations on the lines do. -/
theorem configurationIsImmutable : Obligations.ConfigurationIsImmutable := by
  intro s t h
  refine (cfg_linesClosed s.cfg).step_keeps (fun en u hu => ?_) h rfl (fun _ _ => rfl)
  cases en <;> exact hu

/-! ### OBLIGATION_VIOLATED -/

/-- Along a request OBLIGATION_VIOLATED is set or left, never cleared (R26, R92). -/
theorem obligationViolated_seqClosed : SeqClosed (fun s => s.obligationViolated = true) (fun s => s.obligationViolated = true) where
  send c i s hi h := by
    simp [sendCommand_eq c _ s (frameOf_ne_nil s.cfg i hi), h]
  seq _ _ h := h
  polls _ _ h := h
  arm _ h := h
  respond _ _ _ h := h
  fault _ _ h _ _ := h
  park _ h _ := h

/-- No instruction clears OBLIGATION_VIOLATED (R26). -/
theorem exec_obligationViolated {i : Instr} {s t : State} (hs : s.obligationViolated = true) (h : exec i s = .next t) :
    t.obligationViolated = true := by
  refine exec_closed obligationViolated_seqClosed h ?_ ?_ ?_ ?_ ?_
  · exact fun _ => hs
  · rintro (_ | _) - - <;> exact hs
  · exact fun _ _ _ _ => hs
  · intro out _ _ _
    rw [hostXfer_eq]
    exact hs
  · exact fun _ => hs

/-- A step that is no reset leaves OBLIGATION_VIOLATED set (R133). -/
theorem step_obligationViolated {s t : State} (hs : s.obligationViolated = true) (h : step s = .next t) (hno : ¬ s.ResetNext) :
    t.obligationViolated = true := by
  refine step_closed (Q := fun t => t.obligationViolated = true) h (fun _ _ => hs) (fun rest hidle hq => ?_) (fun _ _ => hs)
    (fun i rest he => exec_obligationViolated (s := { s with hostQueue := rest }) hs he)
  exact absurd ⟨hidle, by rw [hq]; rfl⟩ hno

/-! ### Reset -/

/-- A reset the host asks for at Idle is taken off its queue (R132, R133). -/
theorem step_of_reset {s : State} {rest : List HostMove} (hidle : s.seq = .idle) (hq : s.hostQueue = .reset :: rest) :
    step s = .next (sessionReset { s with hostQueue := rest }) := by
  rw [step_of_idle hidle, hostStep, hq]

/-- At Idle with no host move to come, the block waits (R133). -/
theorem step_of_waiting {s : State} (hidle : s.seq = .idle) (hq : s.hostQueue = []) : step s = .next s := by
  rw [step_of_idle hidle, hostStep, hq]

/-- Settles O8: a reset writes the values of R34 out and leaves the block at Idle; a faulted block keeps its FAULT
(`faultedBlockRefusesEverything`), and nothing but a reset clears OBLIGATION_VIOLATED. -/
theorem resetStartsNewSession : Obligations.ResetStartsNewSession := by
  refine ⟨fun s rest hidle hq => ?_, fun s t h hno => ⟨fun hfault => ?_, fun hviolated => ?_⟩⟩
  · exact ⟨_, step_of_reset hidle hq, rfl, rfl, rfl, rfl, rfl, rfl, rfl, rfl, rfl, rfl, fun hrest => step_of_waiting rfl hrest⟩
  · exact faultedBlockRefusesEverything.2 s t h hfault hno
  · exact step_obligationViolated hviolated h hno

end Sys2Proof.Machine
end
